-- ==== Sys2Proof/Word.lean ====
section
/-! DEFINITION. Words and bytes of the block (spec 00_scope.md R7, R10, R11): every value is unsigned. -/

namespace Sys2Proof

/-- A 32-bit value: an accumulator, an address, a length or a port word (R6, R7, R47). -/
abbrev Word := BitVec 32

/-- An 8-bit value: one byte of the caller's memory, or IMM8 (R12, R62). -/
abbrev Byte := BitVec 8

end Sys2Proof
end

