-- ==== Sys2Proof/Config.lean ====
section
/-! DEFINITION. What the spec fixes for the machine (00_scope.md R2, R6, R7; 10_state.md R36; 40_engine.md R80).
The one open parameter, MEM_READABLE (R8), is plain data in State (log entry 3); no open VALUE is left, so no constant here is opaque. -/

namespace Sys2Proof

/-- POLY, the reflected polynomial (R6, R36, R80). -/
def Config.poly : Word := 0xEDB88320#32

/-- INITIAL, the seed of a chain (R6, R36, R80). -/
def Config.initial : Word := 0xFFFFFFFF#32

/-- How many bit-steps follow a byte XOR (R28, R82). -/
def Config.bitsPerByte : Nat := 8

end Sys2Proof
end

