-- ==== Sys2Proof/Syntax.lean ====
section
/-! DEFINITION. The instructions: one constructor per row of spec/opcode_table.json (30_encoding.md R63, R71).
An operand word that R63 marks "ignored" is no field (R67). -/

namespace Sys2Proof

/-- The eight commands and the four read-port reads. -/
inductive Instr where
  /-- NOP (R100). -/
  | nop
  /-- INIT (R101). -/
  | init
  /-- LOAD: ARG0 is the accumulator value (R102). -/
  | load (value : Word)
  /-- UPDB: IMM8 is the byte (R110). -/
  | updb (imm : Byte)
  /-- UPD: ARG0 is the buffer address, ARG1 its length (R111). -/
  | upd (addr len : Word)
  /-- FIN (R120). -/
  | fin
  /-- BUFCRC: ARG0 is the buffer address, ARG1 its length (R125). -/
  | bufcrc (addr len : Word)
  /-- STRCRC: ARG0 is the string address (R126). -/
  | strcrc (addr : Word)
  /-- `rd status`, RADDR = 0 (R103). -/
  | rdStatus
  /-- `rd acc`, RADDR = 1 (R104). -/
  | rdAcc
  /-- `rd result`, RADDR = 2 (R105). -/
  | rdResult
  /-- `rd 3`, RADDR = 3, reserved (R106). -/
  | rdRsv3
  deriving DecidableEq, Repr

end Sys2Proof
end

