-- ==== Sys2Proof/WellFormed.lean ====
section
/-! DEFINITION. Which source lines the assembler accepts (30_encoding.md R72, R73).
Every value of `Instr` is well-formed: its operands' widths are in its types. What can be ill-formed is a source line,
whose operands are plain numbers: an operand out of range is rejected, not encoded. -/

namespace Sys2Proof

/-- One line of assembly source: the syntax rows of R72 and the pseudo-instructions of R73. -/
inductive Asm where
  | nop
  | init
  | load (v : Nat)
  | updb (b : Nat)
  | upd (addr len : Nat)
  | fin
  | bufcrc (addr len : Nat)
  | strcrc (addr : Nat)
  /-- `.word w, a0, a1`: a raw transaction, legal or not. -/
  | word (w a0 a1 : Nat)
  | rdStatus
  | rdAcc
  | rdResult
  | rd3
  /-- `updbs b1, ..., bn` (R73). -/
  | updbs (bs : List Nat)
  /-- The HOST's polling loop (R73). -/
  | wait
  /-- Another name of `init` (R73). -/
  | seed
  /-- Another name of `load` (R73). -/
  | restore (v : Nat)
  /-- Another name of `rd acc` (R73). -/
  | save
  deriving DecidableEq, Repr

/-- `<b8>` must lie in 0 to 255 (R72). -/
def inByteRange (n : Nat) : Bool := n < 2 ^ 8

/-- `<v32>`, `<addr>` and `<len>` must lie in 0 to 2^32-1 (R72); so must the three words of `.word`. -/
def inWordRange (n : Nat) : Bool := n < 2 ^ 32

/-- The assembler's range checks (R72). `updbs` names at least one byte: R73 writes it `updbs b1, b2, ..., bn`. -/
def Asm.wf : Asm → Bool
  | .load v | .restore v => inWordRange v
  | .updb b => inByteRange b
  | .upd a n | .bufcrc a n => inWordRange a && inWordRange n
  | .strcrc a => inWordRange a
  | .word w a0 a1 => inWordRange w && inWordRange a0 && inWordRange a1
  | .updbs bs => !bs.isEmpty && bs.all inByteRange
  | .nop | .init | .fin | .rdStatus | .rdAcc | .rdResult | .rd3 | .wait | .seed | .save => true

end Sys2Proof
end

