-- ==== Sys2Proof/Decode.lean ====
section
/-! DEFINITION. Requests on the two ports, their decoder and encoder (30_encoding.md R60 to R74). -/

namespace Sys2Proof

/-- One command transaction: three words presented and consumed together (R60). -/
structure Transaction where
  cmd : Word
  arg0 : Word
  arg1 : Word
  deriving DecidableEq, Repr

/-- What the HOST presents on a port: a transaction on the command port (R60) or RADDR on the read port (R71). -/
inductive Request where
  | command (t : Transaction)
  | read (raddr : BitVec 2)
  deriving DecidableEq, Repr

/-- Why a command word is illegal: the conditions (a), (b) and (c) of R68. The block reports one bit for all (R145). -/
inductive IllegalReason where
  | opcodeReserved
  | rsvNonzero
  | immNonzero
  deriving DecidableEq, Repr

/-- OPC = CMD[31:24] (R62). -/
def opcField (w : Word) : Byte := w.extractLsb' 24 8

/-- RSV = CMD[23:8] (R62). -/
def rsvField (w : Word) : BitVec 16 := w.extractLsb' 8 16

/-- IMM8 = CMD[7:0] (R62). -/
def immField (w : Word) : Byte := w.extractLsb' 0 8

/-- The row of R63 an opcode selects, with its operand words taken from the transaction (R66). -/
def decodeOpcode (opc : Byte) (t : Transaction) : Except IllegalReason Instr :=
  match opc with
  | 0x00#8 => .ok .nop
  | 0x01#8 => .ok .init
  | 0x02#8 => .ok (.load t.arg0)
  | 0x04#8 => .ok (.upd t.arg0 t.arg1)
  | 0x05#8 => .ok .fin
  | 0x06#8 => .ok (.bufcrc t.arg0 t.arg1)
  | 0x07#8 => .ok (.strcrc t.arg0)
  | _ => .error .opcodeReserved

/-- The decode function, total on every command word, in the order of R74. -/
def decode (t : Transaction) : Except IllegalReason Instr :=
  if rsvField t.cmd ≠ 0 then .error .rsvNonzero
  else if opcField t.cmd = 0x03#8 then .ok (.updb (immField t.cmd))
  else if immField t.cmd ≠ 0 then .error .immNonzero
  else decodeOpcode (opcField t.cmd) t

/-- The register a read address selects (R71). -/
def decodeRead (raddr : BitVec 2) : Instr :=
  match raddr with
  | 0#2 => .rdStatus
  | 1#2 => .rdAcc
  | 2#2 => .rdResult
  | _ => .rdRsv3

/-- The instruction a request stands for. -/
def decodeRequest : Request → Except IllegalReason Instr
  | .command t => decode t
  | .read a => .ok (decodeRead a)

/-- One row of R64: a command word w selects it when `(w and mask) = match`. -/
structure Row where
  pattern : Word
  mask : Word
  deriving DecidableEq, Repr

/-- `(w and mask) = match` (R64). -/
def Row.selects (r : Row) (w : Word) : Bool := (w &&& r.mask) == r.pattern

/-- The eight rows of R64, in the table's order. -/
def commandRows : List Row :=
  [⟨0x00000000#32, 0xFFFFFFFF#32⟩, ⟨0x01000000#32, 0xFFFFFFFF#32⟩, ⟨0x02000000#32, 0xFFFFFFFF#32⟩, ⟨0x03000000#32, 0xFFFFFF00#32⟩,
   ⟨0x04000000#32, 0xFFFFFFFF#32⟩, ⟨0x05000000#32, 0xFFFFFFFF#32⟩, ⟨0x06000000#32, 0xFFFFFFFF#32⟩, ⟨0x07000000#32, 0xFFFFFFFF#32⟩]

/-- The rows that select a command word. -/
def rowsSelecting (w : Word) : List Row := commandRows.filter (fun r => r.selects w)

/-- The request of an instruction, from the tables of R64, R71 and R72: 0 in every ignored operand word. -/
def encode : Instr → Request
  | .nop => .command ⟨0x00000000#32, 0#32, 0#32⟩
  | .init => .command ⟨0x01000000#32, 0#32, 0#32⟩
  | .load v => .command ⟨0x02000000#32, v, 0#32⟩
  | .updb b => .command ⟨0x03000000#32 ||| b.setWidth 32, 0#32, 0#32⟩
  | .upd a n => .command ⟨0x04000000#32, a, n⟩
  | .fin => .command ⟨0x05000000#32, 0#32, 0#32⟩
  | .bufcrc a n => .command ⟨0x06000000#32, a, n⟩
  | .strcrc a => .command ⟨0x07000000#32, a, 0#32⟩
  | .rdStatus => .read 0#2
  | .rdAcc => .read 1#2
  | .rdResult => .read 2#2
  | .rdRsv3 => .read 3#2

/-- The request whose bits are `w`, numbered as spec/opcode_table.json numbers them. A row of the read port has fewer bits
than a command word (RADDR, R71); a row of the command port has CMD in bits 31..0, and ARG0 and ARG1 above it (R60). -/
def tableRequest (nbits w : Nat) : Request :=
  if nbits < 32 then .read (BitVec.ofNat 2 w)
  else .command ⟨BitVec.ofNat 32 w, BitVec.ofNat 32 (w / 2 ^ 32), BitVec.ofNat 32 (w / 2 ^ 64)⟩

/-- Whether `w` fits the port that `tableRequest` gives it to. -/
def tableWordFits (nbits w : Nat) : Bool := if nbits < 32 then w < 2 ^ 2 else w < 2 ^ 96

/-- The instruction the decoder reads from a table row's bits; none where it refuses. -/
def decodeTableWord (nbits w : Nat) : Option Instr :=
  if tableWordFits nbits w then
    match decodeRequest (tableRequest nbits w) with
    | .ok i => some i
    | .error _ => none
  else none

end Sys2Proof
end

