-- ==== Sys2Proof/Machine/State.lean ====
section
/-! DEFINITION. State (10_state.md): the nine registers of the block (R39), and what the HOST agent holds beside it. -/

namespace Sys2Proof.Machine

/-- SEQ, the sequencer mode (R29). The encoding 3 is never written and does not exist here (93 I14). -/
inductive SeqMode where
  | none
  | buf
  | str
  deriving DecidableEq, Repr

/-- The two agents (R20). -/
inductive Agent where
  | host
  | engine
  deriving DecidableEq, Repr

/-- One step of the HOST (00_scope.md R14; 60_exceptions.md R155). -/
inductive HostStep where
  /-- Issue a transaction on the command port, or read a register of the read port. -/
  | request (r : Request)
  /-- One turn of the polling loop: read STATUS, and go on once bit 0 of the value read is 0 (R73). -/
  | wait
  /-- Write one byte of BM. -/
  | write (addr : Word) (byte : Byte)
  /-- Assert reset (R160). -/
  | reset
  deriving DecidableEq, Repr

/-- One range of readable addresses, both ends included (R8). -/
structure Region where
  first : Word
  last : Word
  deriving DecidableEq, Repr

/-- One value the read port returned to the HOST (R71). -/
structure ReadEvent where
  raddr : BitVec 2
  data : Word
  deriving DecidableEq, Repr

/-- BM as (address, byte) pairs, addresses strictly rising, no entry equal to what an unlisted address reads as (`Memory.wf`). -/
abbrev Memory := List Host.Cell

/-- The whole state. The first nine fields are the block (R39); the rest is the HOST's, or a record of a port's traffic. -/
structure State where
  /-- ACC (R23). -/
  acc : Word
  /-- RESULT (R24). -/
  result : Word
  /-- ILLEGAL, sticky (R27). -/
  illegal : Bool
  /-- BITCNT, 0 to 8 (R28). -/
  bitcnt : Fin 9
  /-- SEQ (R29). -/
  seq : SeqMode
  /-- PTR (R30). -/
  ptr : Word
  /-- REM (R31). -/
  rem : Word
  /-- FINQ (R32). -/
  finq : Bool
  /-- WRAP (R33). -/
  wrap : Bool
  /-- BM, the caller's byte memory (R40). -/
  mem : Memory
  /-- MEM_READABLE, the open parameter, as a list of ranges (R8; DESIGN CHOICE, log entry 3). No step changes it. -/
  readable : List Region
  /-- The HOST's steps still to take, next one first (DESIGN CHOICE, log entry 4). -/
  host : List HostStep
  /-- Which agent moves at the coming steps at which both have one enabled (DESIGN CHOICE, log entry 5). -/
  turns : List Agent
  /-- What the read port has returned, newest first (DESIGN CHOICE, log entry 6). -/
  reads : List ReadEvent
  /-- The addresses the memory read port has read, newest first (R50; DESIGN CHOICE, log entry 6). -/
  fetches : List Word
  deriving DecidableEq, Repr

/-- The machine right after reset (70_reset_and_hazards.md R160). The fields after `wrap` are not block state: their values
are DESIGN CHOICES of log entries 2 to 6. -/
def State.reset : State where
  acc := Config.initial
  result := 0#32
  illegal := false
  bitcnt := 0
  seq := .none
  ptr := 0#32
  rem := 0#32
  finq := false
  wrap := false
  mem := []
  readable := [⟨0x00000000#32, 0xFFFFFFFF#32⟩]
  host := []
  turns := []
  reads := []
  fetches := []

/-- Why a step stops. -/
inductive Fault where
  /-- Raised by `advance` when the ENGINE has work left but no enabled step (40_engine.md R97) and the HOST has no enabled
  step either. Safe: the hardware hangs here with BUSY = 1 and changes nothing. -/
  | stuck
  deriving DecidableEq, Repr

/-- Why an instruction has no meaning. -/
inductive Refusal where
  /-- Raised by an arm of `exec` for an instruction not yet modelled; no arm raises it. Safe: nothing is claimed of it. -/
  | notModelled (mnemonic : String)
  deriving DecidableEq, Repr

end Sys2Proof.Machine
end

