-- ==== Sys2Proof/Machine/Flags.lean ====
section
/-! DEFINITION. The flags of the block: BUSY, the STATUS word and the WRAP flag of the address increment. -/

namespace Sys2Proof.Machine

/-- BUSY, derived and not stored: `(BITCNT != 0) or (SEQ != NONE)` (R26). -/
def busy (s : State) : Bool := s.bitcnt != 0 || s.seq != .none

/-- STATUS as the read port shows it: `zext_32(ILLEGAL << 1 or BUSY)`, bits 31:2 zero (R25, R103). -/
def statusWord (s : State) : Word :=
  ((BitVec.ofBool s.illegal).setWidth 32 <<< 1) ||| (BitVec.ofBool (busy s)).setWidth 32

/-- `Inc(p, w)`: the address increment modulo 2^32, and WRAP set as it passes 0xFFFFFFFF (R96). -/
def inc (p : Word) (w : Bool) : Word × Bool :=
  if p = 0xFFFFFFFF#32 then (0x00000000#32, true) else (p + 1#32, w)

/-- The encoding of SEQ (R29). -/
def seqCode : SeqMode → BitVec 2
  | .none => 0#2
  | .buf => 1#2
  | .str => 2#2

end Sys2Proof.Machine
end

