-- ==== Sys2Proof/Machine/Crc.lean ====
section
/-! DEFINITION. The pure functions of the datapath (40_engine.md R81 to R84). -/

namespace Sys2Proof.Machine

/-- `zext_32(b)` (R11). -/
def zext32 (b : Byte) : Word := b.setWidth 32

/-- `BitStep(a)`: test bit 0, shift right logically, XOR POLY if the bit was set (R81). -/
def bitStep (a : Word) : Word :=
  if a.getLsbD 0 then (a >>> 1) ^^^ Config.poly else a >>> 1

/-- n bit-steps. -/
def bitSteps : Nat → Word → Word
  | 0, a => a
  | n + 1, a => bitSteps n (bitStep a)

/-- `a xor zext_32(b)`: the byte XOR, on the low 8 bits only (R65, R82). -/
def xorByte (a : Word) (b : Byte) : Word := a ^^^ zext32 b

/-- `ByteStep(a, b)`: the byte XOR, then always 8 bit-steps (R82). -/
def byteStep (a : Word) (b : Byte) : Word := bitSteps Config.bitsPerByte (xorByte a b)

/-- `Update(S, a)`: the bytes in sequence order, first byte first (R83). -/
def update : List Byte → Word → Word
  | [], a => a
  | b :: bs, a => update bs (byteStep a b)

/-- `Finalize(a) = not a` (R84). -/
def finalize (a : Word) : Word := ~~~a

end Sys2Proof.Machine
end

