-- ==== Sys2Proof/Machine/Operands.lean ====
section
/-! DEFINITION. What an operand names: the byte IMM8 in the datapath, an address, a buffer `Mem[p, n]` (00_scope.md R12;
30_encoding.md R65, R66). -/

namespace Sys2Proof.Machine

/-- The i-th address of a buffer at p, modulo 2^32 (R12, R59). -/
def addrAt (p : Word) (i : Nat) : Word := p + BitVec.ofNat 32 i

/-- The addresses p, p+1, ..., p+n-1 in that order (R12, R46). -/
def addrsFrom (p : Word) (n : Nat) : List Word := (List.range n).map (addrAt p)

end Sys2Proof.Machine
end

