-- ==== Sys2Proof/Machine/Ops.lean ====
section
/-! DEFINITION. The shared operations: BM, the registers' updates, acceptance on the command port, the read port, the illegal
command and reset. -/

namespace Sys2Proof.Machine

/-! ### BM (20_memory.md) -/

/-- What an address of BM that the list does not hold reads as (DESIGN CHOICE, log entry 2). -/
def unlistedByte : Byte := 0#8

/-- The canonical form: addresses below 2^32 and strictly rising, no entry equal to `unlistedByte`. -/
def Memory.wf : Memory → Bool
  | [] => true
  | [(a, b)] => decide (a < 2 ^ 32) && b != unlistedByte
  | (a, b) :: (a', b') :: m => decide (a < a') && b != unlistedByte && Memory.wf ((a', b') :: m)

/-- The byte at an address. -/
def lookupByte : Memory → Nat → Byte
  | [], _ => unlistedByte
  | (a, b) :: m, k => if k = a then b else lookupByte m k

/-- An entry in front of a memory, left out where it says what an unlisted address says. -/
def consCell (k : Nat) (v : Byte) (m : Memory) : Memory :=
  if v = unlistedByte then m else (k, v) :: m

/-- One byte written, keeping the canonical form. -/
def storeByte : Memory → Nat → Byte → Memory
  | [], k, v => consCell k v []
  | (a, b) :: m, k, v =>
    if k < a then consCell k v ((a, b) :: m)
    else if k = a then consCell k v m
    else (a, b) :: storeByte m k v

/-- The byte BM holds at an address (R42, R53). -/
def readMem (s : State) (a : Word) : Byte := lookupByte s.mem a.toNat

/-- The HOST writes one byte of BM (R40, R155); the block never does (R43). -/
def writeMem (s : State) (a : Word) (b : Byte) : State := { s with mem := storeByte s.mem a.toNat b }

/-- An address lies in a region. -/
def regionHolds (r : Region) (a : Word) : Bool := decide (r.first ≤ a) && decide (a ≤ r.last)

/-- `MEM_READABLE(a)` (R8, R42). -/
def memReadable (s : State) (a : Word) : Bool := s.readable.any (fun r => regionHolds r a)

/-- `Mem[p, n]`: the bytes at p, p+1, ..., p+n-1 in that order (R12). -/
def memBytes (s : State) (p : Word) (n : Nat) : List Byte := (addrsFrom p n).map (readMem s)

/-! ### Register updates -/

/-- `ACC <- v`. -/
def setAcc (s : State) (v : Word) : State := { s with acc := v }

/-- `RESULT <- not ACC` (R84, R95, R120). -/
def finalizeResult (s : State) : State := { s with result := finalize s.acc }

/-- `ILLEGAL <- 1` (R141). -/
def setIllegal (s : State) : State := { s with illegal := true }

/-- The byte XOR: `ACC <- ACC xor zext_32(b)`, `BITCNT <- 8` (R82, R91, R93, R110). -/
def feedByte (s : State) (b : Byte) : State := { s with acc := xorByte s.acc b, bitcnt := 8 }

/-- The sequencer starts at an address: `SEQ`, `PTR`, `FINQ` written and `WRAP <- 0` (R111, R125, R126). -/
def startSequencer (s : State) (q : SeqMode) (p : Word) (fin : Bool) : State :=
  { s with seq := q, ptr := p, finq := fin, wrap := false }

/-- `REM <- n`. -/
def setRem (s : State) (n : Word) : State := { s with rem := n }

/-- `(PTR, WRAP) <- Inc(PTR, WRAP)` (R96). -/
def advancePtr (s : State) : State :=
  { s with ptr := (inc s.ptr s.wrap).1, wrap := (inc s.ptr s.wrap).2 }

/-- The memory read port has read the byte at PTR (R49, R50). -/
def recordFetch (s : State) : State := { s with fetches := s.ptr :: s.fetches }

/-- `Complete()`: RESULT from the ACC the step reads when FINQ = 1; then SEQ, FINQ and WRAP cleared (R95). -/
def complete (s : State) : State :=
  { s with
    result := if s.finq then finalize s.acc else s.result
    seq := .none
    finq := false
    wrap := false }

/-- The read port returns a value to the HOST (R71). No register of the block changes. -/
def returnRead (s : State) (raddr : BitVec 2) (v : Word) : State :=
  { s with reads := ⟨raddr, v⟩ :: s.reads }

/-- The HOST goes on to its next step. -/
def dequeue (s : State) : State := { s with host := s.host.tail }

/-- One choice of the interleaving is used up. -/
def dropTurn (s : State) : State := { s with turns := s.turns.tail }

/-- Reset writes every register of the block to its reset value; BM and what the HOST holds stay (R160). -/
def resetBlock (s : State) : State :=
  { s with
    acc := Config.initial
    result := 0#32
    illegal := false
    bitcnt := 0
    seq := .none
    ptr := 0#32
    rem := 0#32
    finq := false
    wrap := false }

/-- A block brought to idle: nothing left for the ENGINE to do. -/
def makeIdle (s : State) : State := { s with bitcnt := 0, seq := .none, finq := false, wrap := false }

/-! ### The command port -/

/-- The accept step of a command with effect `f` (R61). With BUSY = 1 the command port does not accept: the command has none of
its effect, and the HOST goes on presenting it (`hostEnabled` keeps it at the head of the HOST's list). -/
def accept (s : State) (f : State → State) : Host.Outcome State Fault Refusal :=
  if busy s then .next s else .next (f s)

/-- IllegalCommand, the block's one exception: accepted like any command, `ILLEGAL <- 1`, nothing else (R68, R141). There is no
trap entry and no return (R140, R146, R147): `resetBlock` alone clears the flag. -/
def takeIllegal (s : State) : Host.Outcome State Fault Refusal := accept s setIllegal

end Sys2Proof.Machine
end

