-- ==== Sys2Proof/Machine/Checksum.lean ====
section
/-! DEFINITION. The one-shot checksum commands BUFCRC and STRCRC, at their accept step (44_checksum.md R125, R126). -/

namespace Sys2Proof.Machine

/-- BUFCRC: ACC seeded, the sequencer started over the buffer, finalization at completion (R125). -/
def execBufcrc (addr len : Word) (s : State) : Host.Outcome State Fault Refusal :=
  accept s (fun s => setRem (startSequencer (setAcc s Config.initial) .buf addr true) len)

/-- STRCRC: ACC seeded, the sequencer started over the string, finalization at completion; REM is not written (R126). -/
def execStrcrc (addr : Word) (s : State) : Host.Outcome State Fault Refusal :=
  accept s (fun s => startSequencer (setAcc s Config.initial) .str addr true)

end Sys2Proof.Machine
end

