-- ==== Sys2Proof/Machine/Control.lean ====
section
/-! DEFINITION. The control commands NOP, INIT and LOAD (41_control.md R100 to R102). -/

namespace Sys2Proof.Machine

/-- NOP: no state changes (R100). -/
def execNop (s : State) : Host.Outcome State Fault Refusal := accept s id

/-- INIT: `ACC <- INITIAL` (R101). -/
def execInit (s : State) : Host.Outcome State Fault Refusal := accept s (fun s => setAcc s Config.initial)

/-- LOAD: `ACC <- ARG0` (R102). -/
def execLoad (value : Word) (s : State) : Host.Outcome State Fault Refusal := accept s (fun s => setAcc s value)

end Sys2Proof.Machine
end

