-- ==== Sys2Proof/Machine/Finalize.lean ====
section
/-! DEFINITION. The finalize command FIN (43_finalize.md R120). -/

namespace Sys2Proof.Machine

/-- FIN: `RESULT <- not ACC`; ACC is unchanged (R120). -/
def execFin (s : State) : Host.Outcome State Fault Refusal := accept s finalizeResult

end Sys2Proof.Machine
end

