-- ==== Sys2Proof/Machine/ReadPort.lean ====
section
/-! DEFINITION. The four read-port reads (41_control.md R103 to R106). They are enabled in every state, whatever BUSY is, and
change nothing of the block (30_encoding.md R71). -/

namespace Sys2Proof.Machine

/-- `rd status` (R103). -/
def execRdStatus (s : State) : Host.Outcome State Fault Refusal := .next (returnRead s 0#2 (statusWord s))

/-- `rd acc` (R104). -/
def execRdAcc (s : State) : Host.Outcome State Fault Refusal := .next (returnRead s 1#2 s.acc)

/-- `rd result` (R105). -/
def execRdResult (s : State) : Host.Outcome State Fault Refusal := .next (returnRead s 2#2 s.result)

/-- `rd 3`, reserved, reads 0 (R106). -/
def execRdRsv3 (s : State) : Host.Outcome State Fault Refusal := .next (returnRead s 3#2 0#32)

end Sys2Proof.Machine
end

