-- ==== Sys2Proof/Machine/Update.lean ====
section
/-! DEFINITION. The update commands UPDB and UPD, at their accept step (42_update.md R110, R111). -/

namespace Sys2Proof.Machine

/-- UPDB: the immediate byte is XORed into ACC and BITCNT set to 8 (R110). -/
def execUpdb (imm : Byte) (s : State) : Host.Outcome State Fault Refusal := accept s (fun s => feedByte s imm)

/-- UPD: the sequencer starts over the buffer, without finalization; ACC and BITCNT stay (R111). -/
def execUpd (addr len : Word) (s : State) : Host.Outcome State Fault Refusal :=
  accept s (fun s => setRem (startSequencer s .buf addr false) len)

end Sys2Proof.Machine
end

