-- ==== Sys2Proof/Machine/Dispatch.lean ====
section
/-! DEFINITION. One arm per constructor of Instr: the meaning of each instruction. -/

namespace Sys2Proof.Machine

def exec (i : Instr) (s : State) : Host.Outcome State Fault Refusal :=
  match i with
  | .nop => Sys2Proof.Machine.execNop s
  | .init => Sys2Proof.Machine.execInit s
  | .load value => Sys2Proof.Machine.execLoad value s
  | .updb imm => Sys2Proof.Machine.execUpdb imm s
  | .upd addr len => Sys2Proof.Machine.execUpd addr len s
  | .fin => Sys2Proof.Machine.execFin s
  | .bufcrc addr len => Sys2Proof.Machine.execBufcrc addr len s
  | .strcrc addr => Sys2Proof.Machine.execStrcrc addr s
  | .rdStatus => Sys2Proof.Machine.execRdStatus s
  | .rdAcc => Sys2Proof.Machine.execRdAcc s
  | .rdResult => Sys2Proof.Machine.execRdResult s
  | .rdRsv3 => Sys2Proof.Machine.execRdRsv3 s

end Sys2Proof.Machine
end

