-- ==== Sys2Proof/Machine/Engine.lean ====
section
/-! DEFINITION. The ENGINE's micro-steps (40_engine.md R89 to R97). -/

namespace Sys2Proof.Machine

/-- The five micro-steps, R90 to R94. -/
inductive EngineStep where
  | shift
  | fetchBuf
  | endBuf
  | fetchStr
  | endStr
  deriving DecidableEq, Repr

/-- A fetch at PTR may be performed: `WRAP = 0` and `MEM_READABLE(PTR)` (R42, R97). -/
def fetchAdmitted (s : State) : Bool := !s.wrap && memReadable s s.ptr

/-- Each micro-step's enabling condition, as R90 to R94 write it. -/
def enabled (s : State) : EngineStep → Bool
  | .shift => s.bitcnt != 0
  | .fetchBuf => s.bitcnt == 0 && s.seq == .buf && s.rem != 0#32 && !s.wrap && memReadable s s.ptr
  | .endBuf => s.bitcnt == 0 && s.seq == .buf && s.rem == 0#32
  | .fetchStr => s.bitcnt == 0 && s.seq == .str && !s.wrap && memReadable s s.ptr && readMem s s.ptr != 0#8
  | .endStr => s.bitcnt == 0 && s.seq == .str && !s.wrap && memReadable s s.ptr && readMem s s.ptr == 0#8

/-- E-SHIFT, one bit-step (R90). -/
def engineShift (s : State) : State := { s with acc := bitStep s.acc, bitcnt := s.bitcnt - 1 }

/-- E-FETCH-BUF: the next buffer byte (R91). -/
def engineFetchBuf (s : State) : State :=
  advancePtr (setRem (feedByte (recordFetch s) (readMem s s.ptr)) (s.rem - 1#32))

/-- E-END-BUF: a buffer command ends, reading nothing (R92). -/
def engineEndBuf (s : State) : State := complete s

/-- E-FETCH-STR: a non-zero string byte (R93). -/
def engineFetchStr (s : State) : State := advancePtr (feedByte (recordFetch s) (readMem s s.ptr))

/-- E-END-STR: the terminator is read, not XORed, and PTR stays (R94). -/
def engineEndStr (s : State) : State := complete (recordFetch s)

/-- The effect of a micro-step. -/
def engineEffect (s : State) : EngineStep → State
  | .shift => engineShift s
  | .fetchBuf => engineFetchBuf s
  | .endBuf => engineEndBuf s
  | .fetchStr => engineFetchStr s
  | .endStr => engineEndStr s

/-- The one micro-step that is enabled, in R89's order; none when the ENGINE is idle or stuck (R97). -/
def engineNext (s : State) : Option EngineStep :=
  if s.bitcnt ≠ 0 then some .shift
  else match s.seq with
    | .none => none
    | .buf => if s.rem = 0#32 then some .endBuf else if fetchAdmitted s then some .fetchBuf else none
    | .str => if fetchAdmitted s then (if readMem s s.ptr = 0#8 then some .endStr else some .fetchStr) else none

/-- A fetch is due: SEQ = BUF with REM != 0, or SEQ = STR (R97). -/
def fetchDue (s : State) : Bool := s.bitcnt == 0 && ((s.seq == .buf && s.rem != 0#32) || s.seq == .str)

/-- The stuck states of R97. -/
def stuck (s : State) : Bool := fetchDue s && (s.wrap || !memReadable s s.ptr)

end Sys2Proof.Machine
end

