-- ==== Sys2Proof/Machine/Turn.lean ====
section
/-! DEFINITION. One step of the two agents: which has a step enabled, which moves, and what it does (00_scope.md R14;
30_encoding.md R61; 60_exceptions.md R145, R155). -/

namespace Sys2Proof.Machine

/-- The HOST has an enabled step: it has one to take, and a transaction needs BUSY = 0 (R61). A read, a memory write, the polling
loop and reset are enabled in every state (R71, R155, R160). -/
def hostEnabled (s : State) : Bool :=
  match s.host with
  | [] => false
  | .request (.command _) :: _ => !busy s
  | .request (.read _) :: _ | .wait :: _ | .write _ _ :: _ | .reset :: _ => true

/-- The ENGINE has an enabled step (R89, R97). -/
def engineEnabled (s : State) : Bool := (engineNext s).isSome

/-- Both agents have an enabled step, so the interleaving is open (R14). -/
def contended (s : State) : Bool := hostEnabled s && engineEnabled s

/-- The agent that moves. Where both can, the state's next choice says which; once the choices are used up the ENGINE goes first,
so an enabled ENGINE step is eventually taken (R99; DESIGN CHOICE, log entry 5). -/
def nextAgent (s : State) : Option Agent :=
  if contended s then some (s.turns.headD .engine)
  else if hostEnabled s then some .host
  else if engineEnabled s then some .engine
  else none

/-- A choice is used up where it was asked for. -/
def takeTurn (s : State) : State := if contended s then dropTurn s else s

/-- A request reaches the block: the decoded instruction runs, and an illegal command word sets ILLEGAL (R68, R141). -/
def runRequest (r : Request) (s : State) : Host.Outcome State Fault Refusal :=
  match decodeRequest r with
  | .ok i => exec i s
  | .error _ => takeIllegal s

/-- The HOST's next step (R14, R155). `wait` reads STATUS, and is over once bit 0 of the value read is 0 (R73). -/
def hostTurn (s : State) : Host.Outcome State Fault Refusal :=
  match s.host with
  | [] => .next s
  | .request r :: _ => runRequest r (dequeue s)
  | .wait :: _ => if (statusWord s).getLsbD 0 then exec .rdStatus s else exec .rdStatus (dequeue s)
  | .write a b :: _ => .next (writeMem (dequeue s) a b)
  | .reset :: _ => .next (resetBlock (dequeue s))

/-- The ENGINE's next micro-step. -/
def engineTurn (s : State) : Host.Outcome State Fault Refusal :=
  match engineNext s with
  | some e => .next (engineEffect s e)
  | none => .fault .stuck

/-- One step of the machine. Where no agent has an enabled step, an idle block rests, keeping all state (R154, R162), and a stuck
one hangs (R97, R142; log entry 7). -/
def advance (s : State) : Host.Outcome State Fault Refusal :=
  match nextAgent s with
  | some .host => hostTurn (takeTurn s)
  | some .engine => engineTurn (takeTurn s)
  | none => if busy s then .fault .stuck else .next s

/-- A request as the HOST's very next step, with all that this takes: for a transaction an idle block (R61), and for a read the
HOST's turn (log entry 9). -/
def placeRequest (s : State) (r : Request) : State :=
  match r with
  | .command _ => { (if busy s then makeIdle s else s) with host := .request r :: s.host }
  | .read _ => { s with host := .request r :: s.host, turns := if engineEnabled s then .host :: s.turns else s.turns }

end Sys2Proof.Machine
end

