-- ==== Sys2Proof/Machine/Step.lean ====
section
/-! DEFINITION. The step, and where it takes its next instruction from. -/

namespace Sys2Proof.Machine

/-- One step of the machine: one HOST step or one ENGINE micro-step (00_scope.md R14). -/
def step (s : State) : Host.Outcome State Fault Refusal := advance s

/-- The request with the table's bits `w`, presented on its port as the HOST's very next step. -/
def State.withFetchWord (s : State) (nbits w : Nat) : State := placeRequest s (tableRequest nbits w)

end Sys2Proof.Machine
end

