-- ==== Sys2Proof/Machine/Asm.lean ====
section
/-! DEFINITION. The assembler of 30_encoding.md R72 and R73: source lines to HOST steps. -/

namespace Sys2Proof.Machine

/-- The HOST step that presents an instruction, with 0 in every ignored operand word (R72). -/
def issue (i : Instr) : HostStep := .request (encode i)

/-- An operand as a 32-bit word; `Asm.wf` has checked its range. -/
def asmWord (n : Nat) : Word := BitVec.ofNat 32 n

/-- An operand as a byte; `Asm.wf` has checked its range. -/
def asmByte (n : Nat) : Byte := BitVec.ofNat 8 n

/-- The HOST steps of a line: the syntax table of R72, and the expansions of R73. -/
def asmExpand : Asm → List HostStep
  | .nop => [issue .nop]
  | .init | .seed => [issue .init]
  | .load v | .restore v => [issue (.load (asmWord v))]
  | .updb b => [issue (.updb (asmByte b))]
  | .upd a n => [issue (.upd (asmWord a) (asmWord n))]
  | .fin => [issue .fin]
  | .bufcrc a n => [issue (.bufcrc (asmWord a) (asmWord n))]
  | .strcrc a => [issue (.strcrc (asmWord a))]
  | .word w a0 a1 => [.request (.command ⟨asmWord w, asmWord a0, asmWord a1⟩)]
  | .rdStatus => [issue .rdStatus]
  | .rdAcc | .save => [issue .rdAcc]
  | .rdResult => [issue .rdResult]
  | .rd3 => [issue .rdRsv3]
  | .updbs bs => bs.map (fun b => issue (.updb (asmByte b)))
  | .wait => [.wait]

/-- A line assembled; none where an operand is out of range (R72). -/
def assemble (a : Asm) : Option (List HostStep) := if a.wf then some (asmExpand a) else none

/-- A program, one command per line (R72); none where a line is rejected. -/
def assembleAll : List Asm → Option (List HostStep)
  | [] => some []
  | a :: as =>
    match assemble a, assembleAll as with
    | some x, some xs => some (x ++ xs)
    | _, _ => none

/-! ### The written form (R72). What the spec leaves open about it is log entry 10. -/

/-- The text before a comment. -/
def stripComment (l : List Char) : List Char := l.takeWhile (fun c => c != ';')

/-- A blank. -/
def isBlank (c : Char) : Bool := c == ' ' || c == '\t'

/-- A text without blanks at its two ends. -/
def trimBlanks (l : List Char) : List Char := ((l.dropWhile isBlank).reverse.dropWhile isBlank).reverse

/-- The pieces of a text between commas. -/
def splitCommas : List Char → List (List Char)
  | [] => [[]]
  | c :: cs =>
    if c == ',' then [] :: splitCommas cs
    else match splitCommas cs with
      | p :: ps => (c :: p) :: ps
      | [] => [[c]]

/-- The value of a digit in base 16. -/
def digitValue (c : Char) : Option Nat :=
  if '0' ≤ c ∧ c ≤ '9' then some (c.toNat - 48)
  else if 'a' ≤ c ∧ c ≤ 'f' then some (c.toNat - 87)
  else if 'A' ≤ c ∧ c ≤ 'F' then some (c.toNat - 55)
  else none

/-- Digits read in a base, after the value of those before them. -/
def digitsValue (base : Nat) : Nat → List Char → Option Nat
  | acc, [] => some acc
  | acc, c :: cs =>
    match digitValue c with
    | some d => if d < base then digitsValue base (base * acc + d) cs else none
    | none => none

/-- A number, decimal or `0x` hexadecimal (R72). -/
def parseNumber : List Char → Option Nat
  | [] => none
  | ['0', 'x'] => none
  | '0' :: 'x' :: ds => digitsValue 16 0 ds
  | ds => digitsValue 10 0 ds

/-- The operands of a line, all of them numbers. -/
def parseNumbers : List (List Char) → Option (List Nat)
  | [] => some []
  | p :: ps =>
    match parseNumber (trimBlanks p), parseNumbers ps with
    | some n, some ns => some (n :: ns)
    | _, _ => none

/-- The numbers after the first word of a line; none at all where there is no more text. -/
def parseOperands (rest : List Char) : Option (List Nat) :=
  if rest.isEmpty then some [] else parseNumbers (splitCommas rest)

/-- The line a first word and its numbers stand for (R72, R73). -/
def asmOfNumbers (word : List Char) (ns : List Nat) : Option Asm :=
  match word, ns with
  | ['n', 'o', 'p'], [] => some .nop
  | ['i', 'n', 'i', 't'], [] => some .init
  | ['l', 'o', 'a', 'd'], [v] => some (.load v)
  | ['u', 'p', 'd', 'b'], [b] => some (.updb b)
  | ['u', 'p', 'd'], [a, n] => some (.upd a n)
  | ['f', 'i', 'n'], [] => some .fin
  | ['b', 'u', 'f', 'c', 'r', 'c'], [a, n] => some (.bufcrc a n)
  | ['s', 't', 'r', 'c', 'r', 'c'], [a] => some (.strcrc a)
  | ['.', 'w', 'o', 'r', 'd'], [w, a0, a1] => some (.word w a0 a1)
  | ['r', 'd'], [3] => some .rd3
  | ['u', 'p', 'd', 'b', 's'], b :: bs => some (.updbs (b :: bs))
  | ['w', 'a', 'i', 't'], [] => some .wait
  | ['s', 'e', 'e', 'd'], [] => some .seed
  | ['r', 'e', 's', 't', 'o', 'r', 'e'], [v] => some (.restore v)
  | ['s', 'a', 'v', 'e'], [] => some .save
  | _, _ => none

/-- A line without its comment: a named read-port register, or a first word and numbers. -/
def parseWords (word rest : List Char) : Option Asm :=
  match word, rest with
  | ['r', 'd'], ['s', 't', 'a', 't', 'u', 's'] => some .rdStatus
  | ['r', 'd'], ['a', 'c', 'c'] => some .rdAcc
  | ['r', 'd'], ['r', 'e', 's', 'u', 'l', 't'] => some .rdResult
  | _, _ =>
    match parseOperands rest with
    | some ns => asmOfNumbers word ns
    | none => none

/-- One line of text as HOST steps; a line with nothing but a comment gives none. -/
def assembleLine (line : List Char) : Option (List HostStep) :=
  let l := trimBlanks (stripComment line)
  if l.isEmpty then some []
  else
    match parseWords (l.takeWhile (fun c => !isBlank c)) (trimBlanks (l.dropWhile (fun c => !isBlank c))) with
    | some a => assemble a
    | none => none

/-- A quoted string in a data directive stands for its bytes, in ASCII (R72; PRESUMED as the spec's own G1, log entry 10). -/
def asciiBytes (text : List Char) : Option (List Byte) :=
  if text.all (fun c => c.toNat < 128) then some (text.map (fun c => BitVec.ofNat 8 c.toNat)) else none

end Sys2Proof.Machine
end

