-- ==== Sys2Proof/Safety.lean ====
section
/-! DEFINITION. The terms claims are stated in: the invariant, valid buffers and strings, runs and their end, and what two states share. -/

namespace Sys2Proof.Machine

/-- The invariant: R34(c); WRAP = 1 only at PTR = 0, where the increment left it (R33, R96); BM in canonical form. R34(a) and (b)
hold by the types of BITCNT and SEQ (93 I14). -/
abbrev Inv (s : State) : Prop :=
  (s.seq = .none → s.finq = false ∧ s.wrap = false) ∧ (s.wrap = true → s.ptr = 0#32) ∧ Memory.wf s.mem = true

/-- `Mem[p, n]` lies below 2^32 and is readable: the HOST's duty for UPD and BUFCRC (R169). -/
abbrev validBuffer (s : State) (p : Word) (n : Nat) : Prop :=
  ∀ i < n, memReadable s (addrAt p i) = true ∧ p.toNat + i < 2 ^ 32

/-- A string of k non-zero bytes and its terminator lies below 2^32 and is readable: the HOST's duty for STRCRC (R169). -/
abbrev validString (s : State) (p : Word) (k : Nat) : Prop :=
  (∀ i < k, readMem s (addrAt p i) ≠ 0#8) ∧ readMem s (addrAt p k) = 0#8 ∧ validBuffer s p (k + 1)

/-- The first m bytes from p may be read and the one after them may not: it is unreadable, or lies past 0xFFFFFFFF (R97). -/
abbrev badAfter (s : State) (p : Word) (m : Nat) : Prop :=
  validBuffer s p m ∧ (p.toNat + m = 2 ^ 32 ∨ memReadable s (addrAt p m) = false)

/-- From s to t the ENGINE fetched the byte b of a buffer at PTR (R91). -/
abbrev bufferByteTaken (s : State) (b : Byte) (t : State) : Prop :=
  t.acc = xorByte s.acc b ∧ t.bitcnt = 8 ∧ t.seq = .buf ∧ t.fetches = s.ptr :: s.fetches

/-- From s to t the ENGINE read the byte b of a string at PTR: the terminator completes the command (R94), any other byte is fed (R93). -/
abbrev stringByteTaken (s : State) (b : Byte) (t : State) : Prop :=
  (b = 0#8 → t.acc = s.acc ∧ t.ptr = s.ptr ∧ t.result = (if s.finq then finalize s.acc else s.result) ∧ busy t = false) ∧
    (b ≠ 0#8 → t.acc = xorByte s.acc b ∧ t.ptr = s.ptr + 1#32 ∧ t.result = s.result ∧ t.bitcnt = 8 ∧ t.seq = .str) ∧
    t.fetches = s.ptr :: s.fetches

/-- k steps of the machine, stopping at the first that gives no next state. -/
def runFor : Nat → State → Host.Outcome State Fault Refusal
  | 0, s => .next s
  | k + 1, s =>
    match step s with
    | .next t => runFor k t
    | .fault r => .fault r
    | .refused r => .refused r

/-- The HOST has no step left to take, and BUSY = 0. -/
def atRest (s : State) : Bool := s.host.isEmpty && !busy s

/-- A HOST step that issues a transaction, legal or not (R60, R68). -/
def isTransaction : HostStep → Bool
  | .request (.command _) => true
  | .request (.read _) | .wait | .write _ _ | .reset => false

/-- The HOST has issued its last transaction (R171 item 1): the port has accepted it (R61), and none is left in the program. -/
def lastIssued (s : State) : Bool := s.host.all (fun h => !isTransaction h)

/-- The step from s to t returned STATUS to the HOST with BUSY = 0 (R171 item 2; `wait` makes the same read, R73). -/
def returnedIdle (s t : State) : Bool :=
  match t.reads with
  | [] => false
  | e :: es => decide (es = s.reads) && (e.raddr == 0#2) && !e.data.getLsbD 0

/-- The run from s has ended within k steps (R171): one of them, taken after the HOST had issued its last transaction, was a
status read that returned BUSY = 0. -/
def runEnded : Nat → State → Bool
  | 0, _ => false
  | k + 1, s =>
    match step s with
    | .next t => (lastIssued s && returnedIdle s t) || runEnded k t
    | .fault _ | .refused _ => false

/-- (ACC, RESULT, ILLEGAL), the final state of a run where they are read after its end (R171). -/
def finalState (s : State) : Word × Word × Bool := (s.acc, s.result, s.illegal)

/-- The run from s ends (R171), and f is its final state. -/
abbrev endsWith (s : State) (f : Word × Word × Bool) : Prop :=
  ∃ k t, runFor k s = .next t ∧ runEnded k s = true ∧ finalState t = f

/-- The records which the steps from s to t added to the read port's are reads of f: ACC, RESULT, and ILLEGAL in STATUS with
BUSY = 0 (R171, R103 to R105). -/
abbrev readsReturn (f : Word × Word × Bool) (s t : State) : Prop :=
  ∃ es, t.reads = es ++ s.reads ∧ ∀ e ∈ es,
    (e.raddr = 0#2 → e.data.getLsbD 0 = false ∧ e.data.getLsbD 1 = f.2.2) ∧ (e.raddr = 1#2 → e.data = f.1) ∧
    (e.raddr = 2#2 → e.data = f.2.1)

/-- The nine registers of the block agree (R39). -/
abbrev sameBlock (s t : State) : Prop :=
  t.acc = s.acc ∧ t.result = s.result ∧ t.illegal = s.illegal ∧ t.bitcnt = s.bitcnt ∧ t.seq = s.seq ∧ t.ptr = s.ptr ∧
    t.rem = s.rem ∧ t.finq = s.finq ∧ t.wrap = s.wrap

/-- Every byte of BM agrees. -/
abbrev sameMemory (s t : State) : Prop := ∀ a : Word, readMem t a = readMem s a

/-- What is neither block register nor byte of BM agrees, but for the records of the two read ports. -/
abbrev sameSurroundings (s t : State) : Prop := t.readable = s.readable ∧ t.host = s.host ∧ t.turns = s.turns

/-- The instructions that arrive on the command port; the others are read-port reads (R60, R71). -/
def isCommand : Instr → Bool
  | .nop | .init | .load _ | .updb _ | .upd _ _ | .fin | .bufcrc _ _ | .strcrc _ => true
  | .rdStatus | .rdAcc | .rdResult | .rdRsv3 => false

/-- The HOST's next step presents a command that decodes to `i`, and the port accepts it (R61). -/
abbrev accepts (s : State) (i : Instr) : Prop :=
  busy s = false ∧ ∃ c hs, s.host = .request (.command c) :: hs ∧ decode c = .ok i

/-- One chunk of a chain (R112): bytes streamed by UPDB, or a buffer fed by UPD. -/
inductive Chunk where
  | streamed (bytes : List Byte)
  | buffer (addr len : Word)
  deriving DecidableEq, Repr

/-- The HOST steps that feed a chunk. -/
def Chunk.steps : Chunk → List HostStep
  | .streamed bs => bs.map (fun b => issue (.updb b))
  | .buffer p n => [issue (.upd p n)]

/-- The bytes a chunk stands for. -/
def Chunk.bytes (s : State) : Chunk → List Byte
  | .streamed bs => bs
  | .buffer p n => memBytes s p n.toNat

/-- The HOST's duty for a chunk (R169). -/
abbrev Chunk.valid (s : State) : Chunk → Prop
  | .streamed _ => True
  | .buffer p n => validBuffer s p n.toNat

/-- The steps a chunk takes: its accepts and its ENGINE steps (R172). -/
def Chunk.cost : Chunk → Nat
  | .streamed bs => 9 * bs.length
  | .buffer _ n => 9 * n.toNat + 2

/-- The HOST program of a chain (R112): `init`, the chunks in order, one `fin`. -/
def chainProgram (chunks : List Chunk) : List HostStep :=
  issue .init :: (chunks.flatMap Chunk.steps ++ [issue .fin])

/-- The bytes of a chain, in order. -/
def chainBytes (s : State) (chunks : List Chunk) : List Byte := chunks.flatMap (fun c => c.bytes s)

/-- The steps of a chain. -/
def chainCost (chunks : List Chunk) : Nat := (chunks.map Chunk.cost).sum + 2

end Sys2Proof.Machine
end

