-- ==== Sys2Proof/Certificates/Slice0/Obligations.lean ====
section
/-! DEFINITION. The statements for the provers. Each docstring names the rules of spec/ it formalises. -/

open Sys2Proof Sys2Proof.Machine

/-! ### Reset and the invariant -/

/-- R160. Reset may be taken in any state, BUSY = 1 and stuck states included, and writes every register to its reset value;
STATUS then reads 0, the port is ready, BM is unchanged. -/
def Obligations.ResetTakenInAnyState : Prop :=
  ∀ (s : State) (hs : List HostStep) (ts : List Agent),
    ∃ t, step { s with host := .reset :: hs, turns := .host :: ts } = .next t ∧
      t.acc = 0xFFFFFFFF#32 ∧ t.result = 0x00000000#32 ∧ t.illegal = false ∧ t.bitcnt = 0 ∧ t.seq = .none ∧
      t.ptr = 0x00000000#32 ∧ t.rem = 0x00000000#32 ∧ t.finq = false ∧ t.wrap = false ∧
      statusWord t = 0x00000000#32 ∧ busy t = false ∧ t.mem = s.mem ∧ t.host = hs ∧ sameBlock State.reset t

/-- R161. A reset aborts a command: no ENGINE step of it is enabled any more and no read of it occurs, ACC is INITIAL, RESULT is 0;
and nothing but a reset leaves a stuck state. -/
def Obligations.ResetAbortsAndAloneFreesStuck : Prop :=
  (∀ (s : State) (hs : List HostStep) (ts : List Agent),
    ∃ t, step { s with host := .reset :: hs, turns := .host :: ts } = .next t ∧
      (∀ e, enabled t e = false) ∧ t.fetches = s.fetches ∧ t.acc = Config.initial ∧ t.result = 0x00000000#32) ∧
  (∀ s t : State, stuck s = true → step s = .next t → (∃ hs, s.host = .reset :: hs) ∨ stuck t = true)

/-- Derived (R34, R160; the part about BM's canonical form is the model's, log entry 2). The invariant holds at reset. -/
def Obligations.ResetMeetsInvariant : Prop := Inv State.reset

/-- Derived (R34, R33, R96; the part about BM's canonical form is the model's, log entry 2). Every step keeps the invariant. -/
def Obligations.StepKeepsInvariant : Prop :=
  ∀ s t : State, Inv s → step s = .next t → Inv t

/-! ### Encoding -/

/-- Derived (R63, R64, R71). Decoding the encoding of an instruction gives it back, at every value of every operand. -/
def Obligations.DecodeEncodeRoundTrip : Prop :=
  ∀ i : Instr, decodeRequest (encode i) = .ok i

/-- Derived (R64, R66, R72). A legal transaction is encoded back to its own command word, and to its own operand words but for the
ignored ones, which are 0. -/
def Obligations.EncodeRestoresCommandWord : Prop :=
  ∀ (c : Transaction) (i : Instr), decode c = .ok i →
    ∃ a0 a1, encode i = .command ⟨c.cmd, a0, a1⟩ ∧
      (a0 = c.arg0 ∨ a0 = 0#32) ∧ (a1 = c.arg1 ∨ a1 = 0#32) ∧
      (∀ v, i = .load v → v = c.arg0 ∧ a0 = c.arg0) ∧
      (∀ p n, i = .upd p n → p = c.arg0 ∧ n = c.arg1 ∧ a0 = c.arg0 ∧ a1 = c.arg1) ∧
      (∀ p n, i = .bufcrc p n → p = c.arg0 ∧ n = c.arg1 ∧ a0 = c.arg0 ∧ a1 = c.arg1) ∧
      (∀ p, i = .strcrc p → p = c.arg0 ∧ a0 = c.arg0)

/-- R74, with the fields of R62 taken by division: the decode function, total on every command word. -/
def Obligations.DecodeFollowsFields : Prop :=
  ∀ c : Transaction,
    let opc := c.cmd.toNat / 2 ^ 24
    let rsv := c.cmd.toNat / 2 ^ 8 % 2 ^ 16
    let imm := c.cmd.toNat % 2 ^ 8
    (rsv ≠ 0 → ∃ e, decode c = .error e) ∧
    (rsv = 0 → opc = 0x03 → decode c = .ok (.updb (BitVec.ofNat 8 imm))) ∧
    (rsv = 0 → opc ≠ 0x03 → imm ≠ 0 → ∃ e, decode c = .error e) ∧
    (rsv = 0 → imm = 0 →
      (opc = 0x00 → decode c = .ok .nop) ∧ (opc = 0x01 → decode c = .ok .init) ∧
      (opc = 0x02 → decode c = .ok (.load c.arg0)) ∧ (opc = 0x04 → decode c = .ok (.upd c.arg0 c.arg1)) ∧
      (opc = 0x05 → decode c = .ok .fin) ∧ (opc = 0x06 → decode c = .ok (.bufcrc c.arg0 c.arg1)) ∧
      (opc = 0x07 → decode c = .ok (.strcrc c.arg0)) ∧ (0x08 ≤ opc → ∃ e, decode c = .error e))

/-- R64. A command word selects a command exactly when `(w and mask) = match` for the command's row, its operands being the transaction's;
exactly one row matches a legal word, none an illegal one, so the eight rows never overlap. -/
def Obligations.RowsSelectExactlyLegalWords : Prop :=
  ∀ c : Transaction,
    (decode c = .ok .nop ↔ c.cmd &&& 0xFFFFFFFF#32 = 0x00000000#32) ∧
    (decode c = .ok .init ↔ c.cmd &&& 0xFFFFFFFF#32 = 0x01000000#32) ∧
    (decode c = .ok (.load c.arg0) ↔ c.cmd &&& 0xFFFFFFFF#32 = 0x02000000#32) ∧
    ((∃ b, decode c = .ok (.updb b)) ↔ c.cmd &&& 0xFFFFFF00#32 = 0x03000000#32) ∧
    (decode c = .ok (.upd c.arg0 c.arg1) ↔ c.cmd &&& 0xFFFFFFFF#32 = 0x04000000#32) ∧
    (decode c = .ok .fin ↔ c.cmd &&& 0xFFFFFFFF#32 = 0x05000000#32) ∧
    (decode c = .ok (.bufcrc c.arg0 c.arg1) ↔ c.cmd &&& 0xFFFFFFFF#32 = 0x06000000#32) ∧
    (decode c = .ok (.strcrc c.arg0) ↔ c.cmd &&& 0xFFFFFFFF#32 = 0x07000000#32) ∧
    ((∃ i, decode c = .ok i) ↔ (rowsSelecting c.cmd).length = 1) ∧
    ((∃ e, decode c = .error e) ↔ (rowsSelecting c.cmd).length = 0)

/-- R67. An ignored operand word has no effect and never makes a command illegal: ARG0 and ARG1 of NOP, INIT, UPDB, FIN and of every
illegal opcode, ARG1 of LOAD and STRCRC. -/
def Obligations.IgnoredOperandsHaveNoEffect : Prop :=
  ∀ w a0 a1 b0 b1 : Word,
    (w.toNat / 2 ^ 24 ∉ [0x02, 0x04, 0x06, 0x07] → decode ⟨w, a0, a1⟩ = decode ⟨w, b0, b1⟩) ∧
    (w.toNat / 2 ^ 24 ∉ [0x04, 0x06] → decode ⟨w, a0, a1⟩ = decode ⟨w, a0, b1⟩)

/-- Derived (R64, R71, 95_test_vectors.md 2.7 for the words; how a row's bits are numbered, ARG0 in bits 63..32 and ARG1 in bits 95..64 of a
transaction and a read address alone in its byte, is the model's, log entry 12). Words written out from the encoding tables decode to their
instructions. -/
def Obligations.TableWordsDecode : Prop :=
  decodeTableWord 32 0x00000000 = some .nop ∧ decodeTableWord 32 0x030000FF = some (.updb 0xFF#8) ∧
  decodeTableWord 96 0x000000060000100004000000 = some (.upd 0x1000#32 6#32) ∧
  decodeTableWord 32 0x05000000 = some .fin ∧ decodeTableWord 96 0x0000001A0000300006000000 = some (.bufcrc 0x3000#32 26#32) ∧
  decodeTableWord 8 2 = some .rdResult ∧ decodeTableWord 32 0x08000000 = none ∧ decodeTableWord 32 0x03000100 = none

/-- Derived (R60, R71, R14; the HOST's list and the choice of turn are the model's, log entries 4 and 5). When the HOST moves and its
next request decodes to an instruction, the step is that instruction's exec, on the state whose HOST has gone on to its next step and
where a choice of turn is used up if both agents could move. -/
def Obligations.StepRunsDecodedRequest : Prop :=
  ∀ (s : State) (r : Request) (hs : List HostStep) (i : Instr),
    s.host = .request r :: hs → decodeRequest r = .ok i → nextAgent s = some .host →
    step s = exec i { s with host := hs, turns := if engineEnabled s then s.turns.tail else s.turns }

/-! ### The instructions -/

/-- R100. NOP is CMD 0x00000000 whatever its operand words, changes nothing, and a non-zero IMM8 or RSV makes the word illegal. -/
def Obligations.NopChangesNothing : Prop :=
  ∀ s : State, busy s = false →
    exec .nop s = .next s ∧ (∀ a0 a1, decode ⟨0x00000000#32, a0, a1⟩ = .ok .nop) ∧
    (∀ w a0 a1, w ≠ 0#32 → w.toNat / 2 ^ 24 = 0 → ∃ e, decode ⟨w, a0, a1⟩ = .error e)

/-- R101. INIT is CMD 0x01000000, writes INITIAL to ACC and nothing else, and does what `load 0xFFFFFFFF` does. -/
def Obligations.InitSeedsAcc : Prop :=
  ∀ s : State, busy s = false →
    exec .init s = .next { s with acc := 0xFFFFFFFF#32 } ∧ exec .init s = exec (.load 0xFFFFFFFF#32) s ∧
    (∀ a0 a1, decode ⟨0x01000000#32, a0, a1⟩ = .ok .init)

/-- R102. LOAD is CMD 0x02000000, copies ARG0 to ACC and changes nothing else; `rd acc` then returns it. -/
def Obligations.LoadCopiesArg0 : Prop :=
  ∀ (s : State) (v : Word), busy s = false →
    exec (.load v) s = .next { s with acc := v } ∧
    exec .rdAcc { s with acc := v } = .next { s with acc := v, reads := ⟨1#2, v⟩ :: s.reads } ∧
    (∀ a1, decode ⟨0x02000000#32, v, a1⟩ = .ok (.load v))

/-- Derived (R110, R98, R172). UPDB at accept XORs its byte into ACC's low 8 bits and sets BITCNT to 8; with no HOST step to come, exactly 8
E-SHIFT steps follow, BUSY reading 1 until the eighth, and leave ByteStep of ACC and the byte, with every other register as before. -/
def Obligations.UpdbFeedsOneByte : Prop :=
  ∀ (s : State) (b : Byte), busy s = false →
    (∀ a0 a1, decode ⟨0x03000000#32 ||| b.setWidth 32, a0, a1⟩ = .ok (.updb b)) ∧
    ∃ u, exec (.updb b) s = .next u ∧ u = { s with acc := s.acc ^^^ b.setWidth 32, bitcnt := 8 } ∧ busy u = true ∧
      (s.host = [] →
        (∀ j < 8, ∃ v, runFor j u = .next v ∧ busy v = true ∧ engineNext v = some .shift) ∧
        runFor 8 u = .next { s with acc := byteStep s.acc b })

/-- Derived (R111, R46, R50, R83, R98, R172). UPD at accept starts the sequencer and leaves ACC and BITCNT; over a valid buffer, with no HOST step
to come, it is BUSY for exactly 9n + 1 ENGINE steps, reads each address once in ascending order, and leaves ACC = Update(Mem[p, n], ACC before). -/
def Obligations.UpdComputesUpdate : Prop :=
  ∀ (s : State) (p n : Word), busy s = false → s.host = [] → validBuffer s p n.toNat →
    ∃ u, exec (.upd p n) s = .next u ∧
      u = { s with seq := .buf, ptr := p, rem := n, finq := false, wrap := false } ∧
      (∀ j ≤ 9 * n.toNat, ∃ v, runFor j u = .next v ∧ busy v = true) ∧
      runFor (9 * n.toNat + 1) u = .next
        { s with
          acc := update (memBytes s p n.toNat) s.acc
          ptr := addrAt p n.toNat
          rem := 0#32
          finq := false
          wrap := false
          fetches := (addrsFrom p n.toNat).reverse ++ s.fetches }

/-- Derived (R111). UPD is accepted in every idle state, its buffer valid or not, and starts the sequencer. -/
def Obligations.UpdStartsSequencer : Prop :=
  ∀ (s : State) (p n : Word), busy s = false →
    ∃ u, exec (.upd p n) s = .next u ∧
      u = { s with seq := .buf, ptr := p, rem := n, finq := false, wrap := false } ∧ busy u = true ∧
      (∀ e, enabled u e = true → e = if n = 0#32 then .endBuf else .fetchBuf)

/-- R120. FIN is CMD 0x05000000, writes not ACC to RESULT and nothing else; issued twice it writes the same value; after `load (not v)`
it gives v; from ACC = INITIAL it gives 0. -/
def Obligations.FinWritesResult : Prop :=
  ∀ s : State, busy s = false →
    exec .fin s = .next { s with result := s.acc ^^^ 0xFFFFFFFF#32 } ∧
    (∀ t, exec .fin s = .next t → exec .fin t = .next t ∧ busy t = false) ∧
    (∀ v, exec .fin { s with acc := ~~~v } = .next { s with acc := ~~~v, result := v }) ∧
    (s.acc = 0xFFFFFFFF#32 → exec .fin s = .next { s with result := 0x00000000#32 }) ∧
    (∀ a0 a1, decode ⟨0x05000000#32, a0, a1⟩ = .ok .fin)

/-- Derived (R125). BUFCRC is accepted in every idle state, seeds ACC and starts the sequencer with finalization pending. -/
def Obligations.BufcrcStartsSequencer : Prop :=
  ∀ (s : State) (p n : Word), busy s = false →
    ∃ u, exec (.bufcrc p n) s = .next u ∧
      u = { s with acc := 0xFFFFFFFF#32, seq := .buf, ptr := p, rem := n, finq := true, wrap := false } ∧ busy u = true

/-- Derived (R125, R46, R50, R172). BUFCRC over a valid buffer takes exactly 9n + 1 ENGINE steps, and leaves the update of INITIAL in ACC
and its finalization in RESULT; with n = 0 it reads nothing. -/
def Obligations.BufcrcComputesChecksum : Prop :=
  ∀ (s : State) (p n : Word), busy s = false → s.host = [] → validBuffer s p n.toNat →
    ∃ u, exec (.bufcrc p n) s = .next u ∧
      (∀ j ≤ 9 * n.toNat, ∃ v, runFor j u = .next v ∧ busy v = true ∧ v.result = s.result) ∧
      runFor (9 * n.toNat + 1) u = .next
        { s with
          acc := update (memBytes s p n.toNat) 0xFFFFFFFF#32
          result := finalize (update (memBytes s p n.toNat) 0xFFFFFFFF#32)
          ptr := addrAt p n.toNat
          rem := 0#32
          finq := false
          wrap := false
          fetches := (addrsFrom p n.toNat).reverse ++ s.fetches }

/-- Derived (R126). STRCRC is accepted in every idle state, seeds ACC and starts the sequencer with finalization pending; REM stays. -/
def Obligations.StrcrcStartsSequencer : Prop :=
  ∀ (s : State) (p : Word), busy s = false →
    ∃ u, exec (.strcrc p) s = .next u ∧
      u = { s with acc := 0xFFFFFFFF#32, seq := .str, ptr := p, finq := true, wrap := false } ∧ busy u = true

/-- Derived (R126, R50, R94, R172). STRCRC over a valid string of k non-zero bytes takes exactly 9k + 1 ENGINE steps, reads k + 1 addresses
once each in ascending order, leaves PTR at the terminator, the update of INITIAL in ACC and its finalization in RESULT. -/
def Obligations.StrcrcComputesChecksum : Prop :=
  ∀ (s : State) (p : Word) (k : Nat), busy s = false → s.host = [] → validString s p k →
    ∃ u, exec (.strcrc p) s = .next u ∧
      (∀ j ≤ 9 * k, ∃ v, runFor j u = .next v ∧ busy v = true ∧ v.result = s.result) ∧
      runFor (9 * k + 1) u = .next
        { s with
          acc := update (memBytes s p k) 0xFFFFFFFF#32
          result := finalize (update (memBytes s p k) 0xFFFFFFFF#32)
          ptr := addrAt p k
          finq := false
          wrap := false
          fetches := (addrsFrom p (k + 1)).reverse ++ s.fetches }

/-- R71, R106. A read may be taken at any step, whatever BUSY is, in any state: it returns STATUS, ACC, RESULT or 0 by its address, and
changes no register and no byte of BM. -/
def Obligations.ReadTakenAtAnyStep : Prop :=
  ∀ (s : State) (a : BitVec 2) (hs : List HostStep) (ts : List Agent),
    ∃ t, step { s with host := .request (.read a) :: hs, turns := .host :: ts } = .next t ∧
      t.reads = ⟨a, if a = 0#2 then statusWord s else if a = 1#2 then s.acc else if a = 2#2 then s.result else 0x00000000#32⟩ :: s.reads ∧
      sameBlock s t ∧ t.mem = s.mem ∧ t.host = hs ∧ t.fetches = s.fetches

/-- R103, R106, and the values of R104 and R105. The four reads answer a next state in every state, with exactly one value returned and
nothing else changed: STATUS has bit 0 BUSY, bit 1 ILLEGAL and bits 31:2 zero; the reserved read gives 0. -/
def Obligations.ReadsAnswerInEveryState : Prop :=
  ∀ s : State,
    (∃ v : Word, exec .rdStatus s = .next { s with reads := ⟨0#2, v⟩ :: s.reads } ∧
      v.getLsbD 0 = (s.bitcnt != 0 || s.seq != .none) ∧ v.getLsbD 1 = s.illegal ∧ (∀ i, 2 ≤ i → v.getLsbD i = false)) ∧
    exec .rdAcc s = .next { s with reads := ⟨1#2, s.acc⟩ :: s.reads } ∧
    exec .rdResult s = .next { s with reads := ⟨2#2, s.result⟩ :: s.reads } ∧
    exec .rdRsv3 s = .next { s with reads := ⟨3#2, 0x00000000#32⟩ :: s.reads }

/-! ### Frames -/

/-- Derived (R71, R100). NOP and the four reads change no register and no byte of BM; NOP returns nothing to the HOST. -/
def Obligations.FrameNopAndReads : Prop :=
  ∀ (s t : State) (i : Instr), i ∈ [.nop, .rdStatus, .rdAcc, .rdResult, .rdRsv3] → exec i s = .next t →
    sameBlock s t ∧ sameMemory s t ∧ sameSurroundings s t ∧ t.fetches = s.fetches ∧ (i = .nop → t.reads = s.reads)

/-- Derived (R24, R101, R102). INIT and LOAD change ACC alone. -/
def Obligations.FrameInitLoad : Prop :=
  ∀ (s t : State) (i : Instr), (i = .init ∨ ∃ v, i = .load v) → exec i s = .next t →
    t.result = s.result ∧ t.illegal = s.illegal ∧ t.bitcnt = s.bitcnt ∧ t.seq = s.seq ∧ t.ptr = s.ptr ∧ t.rem = s.rem ∧
    t.finq = s.finq ∧ t.wrap = s.wrap ∧ sameMemory s t ∧ sameSurroundings s t ∧ t.reads = s.reads ∧ t.fetches = s.fetches

/-- Derived (R24, R110). UPDB at accept changes ACC and BITCNT alone. -/
def Obligations.FrameUpdb : Prop :=
  ∀ (s t : State) (b : Byte), exec (.updb b) s = .next t →
    t.result = s.result ∧ t.illegal = s.illegal ∧ t.seq = s.seq ∧ t.ptr = s.ptr ∧ t.rem = s.rem ∧
    t.finq = s.finq ∧ t.wrap = s.wrap ∧ sameMemory s t ∧ sameSurroundings s t ∧ t.reads = s.reads ∧ t.fetches = s.fetches

/-- Derived (R120, R23). FIN changes RESULT alone. -/
def Obligations.FrameFin : Prop :=
  ∀ s t : State, exec .fin s = .next t →
    t.acc = s.acc ∧ t.illegal = s.illegal ∧ t.bitcnt = s.bitcnt ∧ t.seq = s.seq ∧ t.ptr = s.ptr ∧ t.rem = s.rem ∧
    t.finq = s.finq ∧ t.wrap = s.wrap ∧ sameMemory s t ∧ sameSurroundings s t ∧ t.reads = s.reads ∧ t.fetches = s.fetches

/-- Derived (R111, R125, R126, R24, R31). UPD, BUFCRC and STRCRC at accept change the sequencer's registers, BUFCRC and STRCRC also ACC;
RESULT, ILLEGAL and BITCNT stay, UPD keeps ACC and STRCRC keeps REM. -/
def Obligations.FrameSequencerCommands : Prop :=
  ∀ (s t : State) (i : Instr), (∃ p n, i = .upd p n ∨ i = .bufcrc p n ∨ i = .strcrc p) → exec i s = .next t →
    t.result = s.result ∧ t.illegal = s.illegal ∧ t.bitcnt = s.bitcnt ∧
    ((∃ p n, i = .upd p n) → t.acc = s.acc) ∧ ((∃ p, i = .strcrc p) → t.rem = s.rem) ∧
    sameMemory s t ∧ sameSurroundings s t ∧ t.reads = s.reads ∧ t.fetches = s.fetches

/-! ### The command port -/

/-- Derived (R61; that a held transaction stays at the head of the HOST's list, and that exec of a command on a busy block answers the state
unchanged, are the model's, log entry 4). A transaction presented with BUSY = 1 is held, not lost: it stays the HOST's next step and has none
of its effect; with BUSY = 0 it is accepted at the very next step. -/
def Obligations.HeldUntilIdleThenAccepted : Prop :=
  (∀ (s : State) (c : Transaction) (hs : List HostStep), s.host = .request (.command c) :: hs →
    (busy s = true → hostEnabled s = false ∧ ∀ t, step s = .next t → t.host = s.host) ∧
    (busy s = false → step s = runRequest (.command c) { s with host := hs })) ∧
  (∀ (s : State) (i : Instr), isCommand i = true → busy s = true → exec i s = .next s)

/-- R68, R141. A command word that is illegal by any of the three conditions is accepted, sets ILLEGAL, and changes nothing else. -/
def Obligations.IllegalCommandSetsFlagOnly : Prop :=
  ∀ (s : State) (c : Transaction) (hs : List HostStep), s.host = .request (.command c) :: hs → busy s = false →
    (c.cmd.toNat / 2 ^ 24 ≥ 0x08 ∨ c.cmd.toNat / 2 ^ 8 % 2 ^ 16 ≠ 0 ∨
      (c.cmd.toNat / 2 ^ 24 ≠ 0x03 ∧ c.cmd.toNat % 2 ^ 8 ≠ 0)) →
    ∃ t, step s = .next t ∧ t = { s with host := hs, illegal := true } ∧ busy t = false ∧
      ∀ c' hs', hs = .request (.command c') :: hs' → hostEnabled t = true

/-- R27. ILLEGAL is 0 at reset; accepting an illegal command sets it; nothing else sets it; only reset clears it. -/
def Obligations.IllegalIsSticky : Prop :=
  State.reset.illegal = false ∧
  (∀ (s : State) (c : Transaction) (hs : List HostStep) (e : IllegalReason), s.host = .request (.command c) :: hs →
    busy s = false → decode c = .error e → ∃ t, step s = .next t ∧ t.illegal = true) ∧
  (∀ s t : State, step s = .next t →
    (s.illegal = false → t.illegal = true →
      busy s = false ∧ ∃ c hs e, s.host = .request (.command c) :: hs ∧ decode c = .error e) ∧
    (s.illegal = true → t.illegal = false → ∃ hs, s.host = .reset :: hs))

/-! ### The ENGINE -/

/-- R89. Which micro-step is enabled: at most one in any state, by BITCNT, SEQ, REM and the byte read. -/
def Obligations.EngineStepsAreExclusive : Prop :=
  ∀ s : State,
    (∀ e, enabled s e = true ↔ engineNext s = some e) ∧
    (s.bitcnt ≠ 0 → ∀ e, enabled s e = true ↔ e = .shift) ∧
    (s.bitcnt = 0 → s.seq = .buf →
      (s.rem ≠ 0#32 → ∀ e, enabled s e = true ↔ e = .fetchBuf ∧ s.wrap = false ∧ memReadable s s.ptr = true) ∧
      (s.rem = 0#32 → ∀ e, enabled s e = true ↔ e = .endBuf)) ∧
    (s.bitcnt = 0 → s.seq = .str → ∀ e, enabled s e = true ↔
      e = (if readMem s s.ptr = 0#8 then .endStr else .fetchStr) ∧ s.wrap = false ∧ memReadable s s.ptr = true) ∧
    (s.bitcnt = 0 → s.seq = .none → ∀ e, enabled s e = false)

/-- Derived (R90; which entry of the list of turns is used is the model's, log entry 5). E-SHIFT: one bit-step of ACC and one less of BITCNT;
nothing else changes, but that a choice of turn is used up if the HOST could have moved. Eight of them after a byte XOR, with no HOST step to
come, complete that byte's ByteStep. -/
def Obligations.ShiftStep : Prop :=
  (∀ s : State, nextAgent s = some .engine → s.bitcnt ≠ 0 →
    step s = .next
      { s with
        acc := bitStep s.acc
        bitcnt := s.bitcnt - 1
        turns := if hostEnabled s then s.turns.tail else s.turns } ∧
      (s.bitcnt - 1).val + 1 = s.bitcnt.val) ∧
  (∀ (s : State) (a : Word) (b : Byte), s.host = [] → s.bitcnt = 8 → s.acc = a ^^^ b.setWidth 32 →
    runFor 8 s = .next { s with acc := byteStep a b, bitcnt := 0 })

/-- Derived (R91, with the increment of R96 written out; which entry of the list of turns is used is the model's, log entry 5). E-FETCH-BUF: the
byte at PTR is XORed into ACC, BITCNT is 8, REM one less, PTR one more modulo 2^32, WRAP set as PTR passes 0xFFFFFFFF; one address is read;
nothing else changes, but that a choice of turn is used up if the HOST could have moved. -/
def Obligations.FetchBufStep : Prop :=
  ∀ s : State, nextAgent s = some .engine → s.bitcnt = 0 → s.seq = .buf → s.rem ≠ 0#32 → s.wrap = false →
    memReadable s s.ptr = true →
    step s = .next
      { s with
        acc := s.acc ^^^ (readMem s s.ptr).setWidth 32
        bitcnt := 8
        rem := s.rem - 1#32
        ptr := if s.ptr = 0xFFFFFFFF#32 then 0x00000000#32 else s.ptr + 1#32
        wrap := decide (s.ptr = 0xFFFFFFFF#32)
        turns := if hostEnabled s then s.turns.tail else s.turns
        fetches := s.ptr :: s.fetches }

/-- Derived (R92, with R95 written out; which entry of the list of turns is used is the model's, log entry 5). E-END-BUF: RESULT gets not ACC
when FINQ = 1, and SEQ, FINQ and WRAP are cleared; nothing is read and BUSY becomes 0; nothing else changes, but that a choice of turn is
used up if the HOST could have moved. -/
def Obligations.EndBufStep : Prop :=
  ∀ s : State, nextAgent s = some .engine → s.bitcnt = 0 → s.seq = .buf → s.rem = 0#32 →
    ∃ t, step s = .next t ∧ busy t = false ∧
      t = { s with
            result := if s.finq = true then s.acc ^^^ 0xFFFFFFFF#32 else s.result
            seq := .none
            finq := false
            wrap := false
            turns := if hostEnabled s then s.turns.tail else s.turns }

/-- Derived (R93, with the increment of R96 written out; which entry of the list of turns is used is the model's, log entry 5). E-FETCH-STR: a
non-zero byte at PTR is XORed into ACC, BITCNT is 8, PTR one more modulo 2^32, WRAP set as PTR passes 0xFFFFFFFF; one address is read; REM
stays; nothing else changes, but that a choice of turn is used up if the HOST could have moved. -/
def Obligations.FetchStrStep : Prop :=
  ∀ s : State, nextAgent s = some .engine → s.bitcnt = 0 → s.seq = .str → s.wrap = false → memReadable s s.ptr = true →
    readMem s s.ptr ≠ 0#8 →
    step s = .next
      { s with
        acc := s.acc ^^^ (readMem s s.ptr).setWidth 32
        bitcnt := 8
        ptr := if s.ptr = 0xFFFFFFFF#32 then 0x00000000#32 else s.ptr + 1#32
        wrap := decide (s.ptr = 0xFFFFFFFF#32)
        turns := if hostEnabled s then s.turns.tail else s.turns
        fetches := s.ptr :: s.fetches }

/-- Derived (R94, with R95 written out; which entry of the list of turns is used is the model's, log entry 5). E-END-STR: the terminator at PTR is
read and not XORed, PTR stays, the command completes and BUSY becomes 0; nothing else changes, but that a choice of turn is used up if the
HOST could have moved. -/
def Obligations.EndStrStep : Prop :=
  ∀ s : State, nextAgent s = some .engine → s.bitcnt = 0 → s.seq = .str → s.wrap = false → memReadable s s.ptr = true →
    readMem s s.ptr = 0#8 →
    ∃ t, step s = .next t ∧ busy t = false ∧
      t = { s with
            result := if s.finq = true then s.acc ^^^ 0xFFFFFFFF#32 else s.result
            seq := .none
            finq := false
            wrap := false
            turns := if hostEnabled s then s.turns.tail else s.turns
            fetches := s.ptr :: s.fetches }

/-- R97. In a stuck state no micro-step is enabled and BUSY is 1; every step but a reset leaves the block as it is and reads nothing; a
command is never accepted, and where the HOST has no other step there is no step. A busy block with no enabled micro-step is stuck. -/
def Obligations.StuckStatesHang : Prop :=
  (∀ s : State, s.bitcnt = 0 → ((s.seq = .buf ∧ s.rem ≠ 0#32) ∨ s.seq = .str) →
      (s.wrap = true ∨ memReadable s s.ptr = false) →
      (∀ e, enabled s e = false) ∧ busy s = true ∧
      (∀ t, step s = .next t → (∃ hs, s.host = .reset :: hs) ∨ (sameBlock s t ∧ t.fetches = s.fetches)) ∧
      ((s.host = [] ∨ ∃ c hs, s.host = .request (.command c) :: hs) → ∀ t, step s ≠ .next t)) ∧
  (∀ s : State, busy s = true → (∀ e, enabled s e = false) → stuck s = true)

/-- Derived (R97, R142, R59; the fault's name is the model's, log entry 7). A buffer of n bytes whose byte number m < n is unreadable or lies past 0xFFFFFFFF: UPD and BUFCRC are stuck
after exactly 9m ENGINE steps with the first m bytes in ACC, REM = n - m, RESULT unchanged, and never read address 0 instead. -/
def Obligations.BadBufferHangs : Prop :=
  ∀ (s : State) (p n : Word) (m : Nat), busy s = false → s.host = [] → m < n.toNat → badAfter s p m →
    ∀ i ∈ [Instr.upd p n, Instr.bufcrc p n], ∃ u t, exec i s = .next u ∧ runFor (9 * m) u = .next t ∧
      stuck t = true ∧ step t = .fault .stuck ∧ t.acc = update (memBytes s p m) u.acc ∧ t.result = s.result ∧
      t.illegal = s.illegal ∧ t.rem = n - BitVec.ofNat 32 m ∧ t.ptr = addrAt p m ∧
      t.fetches = (addrsFrom p m).reverse ++ s.fetches

/-- Derived (R97, R126, R142, R174; the fault's name is the model's, log entry 7). A string with m non-zero bytes and no terminator before an unreadable address or the top of the
address space: STRCRC is stuck after exactly 9m ENGINE steps, with RESULT unchanged. -/
def Obligations.UnterminatedStringHangs : Prop :=
  ∀ (s : State) (p : Word) (m : Nat), busy s = false → s.host = [] → badAfter s p m →
    (∀ i < m, readMem s (addrAt p i) ≠ 0#8) →
    ∃ u t, exec (.strcrc p) s = .next u ∧ runFor (9 * m) u = .next t ∧
      stuck t = true ∧ step t = .fault .stuck ∧ t.acc = update (memBytes s p m) 0xFFFFFFFF#32 ∧ t.result = s.result ∧
      t.illegal = s.illegal ∧ t.ptr = addrAt p m ∧ t.fetches = (addrsFrom p m).reverse ++ s.fetches

/-! ### The checksums -/

/-- R81, bit by bit as well as in the rule's two cases. -/
def Obligations.BitStepShiftsAndXors : Prop :=
  ∀ a : Word,
    (a.getLsbD 0 = true → bitStep a = (a >>> 1) ^^^ 0xEDB88320#32) ∧ (a.getLsbD 0 = false → bitStep a = a >>> 1) ∧
    (bitStep a).getLsbD 31 = a.getLsbD 0 ∧
    (∀ i < 31, (bitStep a).getLsbD i = (a.getLsbD (i + 1) ^^ (a.getLsbD 0 && (0x04C11DB7#32).getLsbD (31 - i))))

/-- R86. Chunking invariance, for two chunks and for any number of them. -/
def Obligations.UpdateIsChunkingInvariant : Prop :=
  (∀ (s1 s2 : List Byte) (a : Word), update (s1 ++ s2) a = update s2 (update s1 a)) ∧
  (∀ (chunks : List (List Byte)) (a : Word), update chunks.flatten a = chunks.foldl (fun acc c => update c acc) a) ∧
  (∀ (chunks : List (List Byte)),
    finalize (chunks.foldl (fun acc c => update c acc) Config.initial) = finalize (update chunks.flatten Config.initial))

/-- R85, R87, R88. The empty update, the involution, the empty checksum. -/
def Obligations.FinalizeAndEmptyUpdate : Prop :=
  (∀ a : Word, update [] a = a) ∧ (∀ x : Word, finalize (finalize x) = x) ∧ finalize (update [] 0xFFFFFFFF#32) = 0x00000000#32

/-- R127. `bufcrc p, n` leaves the same ACC and RESULT as `init; upd p, n; fin`: step for step, and at the end of the two runs
(R171) that poll STATUS after their last transaction. -/
def Obligations.BufcrcEqualsInitUpdFin : Prop :=
  ∀ (s : State) (p n : Word), busy s = false → validBuffer s p n.toNat →
    ∃ t u, runFor (9 * n.toNat + 2) { s with host := [issue (.bufcrc p n)] } = .next t ∧
      runFor (9 * n.toNat + 4) { s with host := [issue .init, issue (.upd p n), issue .fin] } = .next u ∧
      atRest t = true ∧ atRest u = true ∧ t.acc = u.acc ∧ t.result = u.result ∧
      endsWith { s with host := [issue (.bufcrc p n), .wait] } (finalState t) ∧
      endsWith { s with host := [issue .init, issue (.upd p n), issue .fin, .wait] } (finalState t)

/-- R129. `strcrc p` over k non-zero bytes leaves the same ACC and RESULT as `bufcrc p, k`, step for step and at the end of the two
runs (R171) that poll STATUS after their transaction; it reads one address more. -/
def Obligations.StrcrcEqualsBufcrc : Prop :=
  ∀ (s : State) (p : Word) (k : Nat), busy s = false → validString s p k →
    ∃ t u, runFor (9 * k + 2) { s with host := [issue (.strcrc p)] } = .next t ∧
      runFor (9 * k + 2) { s with host := [issue (.bufcrc p (BitVec.ofNat 32 k))] } = .next u ∧
      atRest t = true ∧ atRest u = true ∧ t.acc = u.acc ∧ t.result = u.result ∧
      t.fetches.length = s.fetches.length + (k + 1) ∧ u.fetches.length = s.fetches.length + k ∧
      endsWith { s with host := [issue (.strcrc p), .wait] } (finalState t) ∧
      endsWith { s with host := [issue (.bufcrc p (BitVec.ofNat 32 k)), .wait] } (finalState t)

/-- R112. A chain, its chunks fed by UPDB or UPD in any mixture: RESULT is the finalized update of INITIAL by the concatenated bytes, so it
depends on neither the chunk boundaries nor the form that fed them; and so is the final state of the run (R171) that polls STATUS after
its `fin`. -/
def Obligations.ChainDependsOnBytesOnly : Prop :=
  ∀ (s : State) (chunks : List Chunk), busy s = false → (∀ c ∈ chunks, c.valid s) →
    ∃ t, runFor (chainCost chunks) { s with host := chainProgram chunks } = .next t ∧ atRest t = true ∧
      t.result = finalize (update (chainBytes s chunks) 0xFFFFFFFF#32) ∧ t.acc = update (chainBytes s chunks) 0xFFFFFFFF#32 ∧
      t.mem = s.mem ∧ t.illegal = s.illegal ∧
      endsWith { s with host := chainProgram chunks ++ [.wait] } (finalState t)

/-! ### Whole-machine rules -/

/-- Derived (R24). RESULT changes only by FIN's accept, by the completion of a command with FINQ = 1, and by reset; the first two write
not ACC. -/
def Obligations.ResultHasThreeWriters : Prop :=
  ∀ s t : State, step s = .next t → t.result ≠ s.result →
    (busy s = false ∧ (∃ c hs, s.host = .request (.command c) :: hs ∧ decode c = .ok .fin) ∧ t.result = ~~~s.acc) ∨
    (busy s = true ∧ s.finq = true ∧ s.bitcnt = 0 ∧ s.seq ≠ .none ∧ t.seq = .none ∧ t.result = ~~~s.acc) ∨
    ((∃ hs, s.host = .reset :: hs) ∧ t.result = 0x00000000#32)

/-- Derived (R23). ACC changes only by the accept of INIT, LOAD, UPDB, BUFCRC or STRCRC, by E-SHIFT and the two fetches, and by reset. -/
def Obligations.AccHasListedWriters : Prop :=
  ∀ s t : State, step s = .next t → t.acc ≠ s.acc →
    (busy s = false ∧ ∃ c hs i, s.host = .request (.command c) :: hs ∧ decode c = .ok i ∧
      (i = .init ∨ (∃ v, i = .load v) ∨ (∃ b, i = .updb b) ∨ (∃ p n, i = .bufcrc p n) ∨ (∃ p, i = .strcrc p))) ∨
    (engineNext s = some .shift ∧ t.acc = bitStep s.acc) ∨
    ((engineNext s = some .fetchBuf ∨ engineNext s = some .fetchStr) ∧ t.acc = xorByte s.acc (readMem s s.ptr)) ∨
    ((∃ hs, s.host = .reset :: hs) ∧ t.acc = Config.initial)

/-- Derived (R26). BUSY rises only as UPDB, UPD, BUFCRC or STRCRC is accepted, and falls only by an ENGINE step or a reset. -/
def Obligations.BusyRisesAndFallsAsListed : Prop :=
  ∀ s t : State, step s = .next t →
    (busy s = false → busy t = true → ∃ c hs i, s.host = .request (.command c) :: hs ∧ decode c = .ok i ∧
      ((∃ b, i = .updb b) ∨ (∃ p n, i = .upd p n) ∨ (∃ p n, i = .bufcrc p n) ∨ (∃ p, i = .strcrc p))) ∧
    (busy s = true → busy t = false → (∃ e, engineNext s = some e ∧ nextAgent s = some .engine) ∨ ∃ hs, s.host = .reset :: hs)

/-- R43. The block never writes BM: a step leaves BM as it is unless it is the HOST's own write, which changes one byte and no
register. -/
def Obligations.BlockNeverWritesMemory : Prop :=
  (∀ (s t : State) (i : Instr), exec i s = .next t → t.mem = s.mem) ∧ (∀ (s : State) (e : EngineStep), (engineEffect s e).mem = s.mem) ∧
  (∀ s t : State, Memory.wf s.mem = true → step s = .next t →
    t.mem = s.mem ∨ ∃ a b hs, s.host = .write a b :: hs ∧ sameBlock s t ∧
      ∀ x, readMem t x = if x = a then b else readMem s x)

/-- Derived (R41, R42, R49, R50). A step reads at most one address; it reads only while a sequencer command is BUSY, at PTR, and only where
WRAP = 0 and the address is readable. That no step changes MEM_READABLE is the model's, log entry 3. -/
def Obligations.ReadsOnlyAdmittedPtr : Prop :=
  ∀ s t : State, step s = .next t →
    t.readable = s.readable ∧
    (t.fetches = s.fetches ∨
      (t.fetches = s.ptr :: s.fetches ∧ s.seq ≠ .none ∧ s.bitcnt = 0 ∧ s.wrap = false ∧ memReadable s s.ptr = true))

/-- Derived (R140, R97; that exec of a command on a busy block answers the state unchanged is the model's, log entry 4, and so is the fault's
name, log entry 7). No instruction traps, faults or is refused; a step stops only where
the ENGINE is stuck and the HOST has no enabled step. -/
def Obligations.OnlyStuckStatesStop : Prop :=
  (∀ (s : State) (i : Instr), ∃ t, exec i s = .next t) ∧
  (∀ s : State, (∃ t, step s = .next t) ∨ (step s = .fault .stuck ∧ stuck s = true ∧ hostEnabled s = false)) ∧
  (∀ s : State, stuck s = true → hostEnabled s = false → step s = .fault .stuck)

/-! ### Interleaving -/

/-- Derived (R14, R54; the list of turns is the model's, log entry 5). Where both agents have an enabled step, either may move. -/
def Obligations.EitherAgentMayMove : Prop :=
  ∀ (s : State) (ts : List Agent), hostEnabled s = true → engineEnabled s = true →
    step { s with turns := .host :: ts } = hostTurn { s with turns := ts } ∧
    step { s with turns := .engine :: ts } = engineTurn { s with turns := ts }

/-- Derived (R53, R54, R91, R93, R94; the HOST's list and the list of turns are the model's, log entries 4 and 5). A HOST write to the byte the
ENGINE is about to read races: by the interleaving the fetch takes the old byte or the new one. In a string the byte taken decides between
E-FETCH-STR and E-END-STR, so the write can turn a data byte into the terminator, or the terminator into a data byte. -/
def Obligations.RaceTakesOldOrNewByte : Prop :=
  ∀ (s : State) (b : Byte) (hs : List HostStep), Memory.wf s.mem = true → s.host = .write s.ptr b :: hs →
    (engineNext s = some .fetchBuf →
      (∃ t, runFor 1 { s with turns := [.engine] } = .next t ∧ bufferByteTaken s (readMem s s.ptr) t) ∧
      (∃ t, runFor 2 { s with turns := [.host, .engine] } = .next t ∧ bufferByteTaken s b t)) ∧
    (engineNext s = some .fetchStr ∨ engineNext s = some .endStr →
      (∃ t, runFor 1 { s with turns := [.engine] } = .next t ∧ stringByteTaken s (readMem s s.ptr) t) ∧
      (∃ t, runFor 2 { s with turns := [.host, .engine] } = .next t ∧ stringByteTaken s b t))

/-- Derived (R165; the HOST's list and the list of turns are the model's, log entries 4 and 5). A read of ACC during an UPDB may fall after any number j < 8 of its bit-steps, and returns the accumulator of that
point. -/
def Obligations.ReadWhileBusyAdmitsEachPoint : Prop :=
  ∀ (s : State) (b : Byte) (j : Nat), busy s = false → j < 8 →
    ∃ u t, exec (.updb b) { s with host := [issue .rdAcc], turns := List.replicate j .engine ++ [.host] } = .next u ∧
      runFor (j + 1) u = .next t ∧ t.reads = ⟨1#2, bitSteps j (xorByte s.acc b)⟩ :: s.reads ∧ busy t = true

/-- Derived (R73, R55, R171; the HOST's list is the model's, log entry 4). The polling loop reads STATUS at each of its turns, and is over
exactly at the first that finds BUSY = 0. With every transaction issued, that turn ends the run. A run that has ended has issued its last
transaction and has had STATUS returned with BUSY = 0. An ended run of a program without reset keeps its final state, and every later
read returns it. Without a reset a stuck ENGINE's run has no end. -/
def Obligations.WaitEndsWhenIdle : Prop :=
  (∀ (s : State) (hs : List HostStep), s.host = .wait :: hs → nextAgent s = some .host →
    ∃ t, step s = .next t ∧ t.reads = ⟨0#2, statusWord s⟩ :: s.reads ∧ sameBlock s t ∧ t.mem = s.mem ∧
      (busy s = true → t.host = s.host) ∧ (busy s = false → t.host = hs) ∧
      runEnded 1 s = (!busy s && lastIssued s)) ∧
  (∀ (s t : State) (k : Nat), runFor k s = .next t → runEnded k s = true →
    lastIssued t = true ∧
      ∃ es, t.reads = es ++ s.reads ∧ ∃ e ∈ es, e.raddr = 0#2 ∧ e.data.getLsbD 0 = false) ∧
  (∀ (s t u : State) (j k : Nat), HostStep.reset ∉ s.host → runFor k s = .next t → runEnded k s = true → runFor j t = .next u →
    busy u = false ∧ finalState u = finalState t ∧ readsReturn (finalState t) t u) ∧
  (∀ (s : State) (k : Nat), stuck s = true → HostStep.reset ∉ s.host → runEnded k s = false)

/-- Derived (R99; that the choices are a finite list, after which the ENGINE goes first, is the model's, log entry 5). The ENGINE is not
starved: from a state in which it has an enabled step it moves after at most as many HOST steps as there are choices left, unless the HOST
resets the block. -/
def Obligations.EngineIsNotStarved : Prop :=
  ∀ s : State, engineEnabled s = true →
    ∃ k ≤ s.turns.length, ∃ u, runFor k s = .next u ∧ (nextAgent u = some .engine ∨ busy u = false)

/-- Derived (R39, R71; the two records are the model's, log entry 6). What the read port returned and which addresses were read never
influence a step. -/
def Obligations.RecordsDoNotInfluence : Prop :=
  ∀ (s t : State) (rs : List ReadEvent) (fs : List Word), step s = .next t →
    ∃ rs' fs', step { s with reads := rs, fetches := fs } = .next { t with reads := rs', fetches := fs' }

/-- Derived (R72, R73). Every line of the two tables: an operand in range is encoded, with 0 in every ignored operand word, and an operand out of
range is rejected; `updbs` is its UPDB commands in order, and is rejected if one of its bytes is out of range; `wait` is the polling loop;
`seed`, `restore` and `save` are `init`, `load` and `rd acc`. Of an `updbs` with no byte it says nothing (that is the model's, log entry 10). -/
def Obligations.AssemblerEncodesInRangeOnly : Prop :=
  (∀ v : Nat, assemble (.load v) =
    if v < 2 ^ 32 then some [.request (.command ⟨0x02000000#32, BitVec.ofNat 32 v, 0#32⟩)] else none) ∧
  (∀ v : Nat, assemble (.restore v) = assemble (.load v)) ∧
  (∀ b : Nat, assemble (.updb b) =
    if b ≤ 255 then some [.request (.command ⟨BitVec.ofNat 32 (0x03000000 + b), 0#32, 0#32⟩)] else none) ∧
  (∀ a n : Nat, assemble (.upd a n) =
    if a < 2 ^ 32 ∧ n < 2 ^ 32 then some [.request (.command ⟨0x04000000#32, BitVec.ofNat 32 a, BitVec.ofNat 32 n⟩)] else none) ∧
  (∀ a n : Nat, assemble (.bufcrc a n) =
    if a < 2 ^ 32 ∧ n < 2 ^ 32 then some [.request (.command ⟨0x06000000#32, BitVec.ofNat 32 a, BitVec.ofNat 32 n⟩)] else none) ∧
  (∀ a : Nat, assemble (.strcrc a) =
    if a < 2 ^ 32 then some [.request (.command ⟨0x07000000#32, BitVec.ofNat 32 a, 0#32⟩)] else none) ∧
  (∀ w a0 a1 : Nat, assemble (.word w a0 a1) =
    if w < 2 ^ 32 ∧ a0 < 2 ^ 32 ∧ a1 < 2 ^ 32 then
      some [.request (.command ⟨BitVec.ofNat 32 w, BitVec.ofNat 32 a0, BitVec.ofNat 32 a1⟩)]
    else none) ∧
  (∀ bs : List Nat, bs ≠ [] → assemble (.updbs bs) =
    if ∀ b ∈ bs, b ≤ 255 then
      some (bs.map (fun b => .request (.command ⟨BitVec.ofNat 32 (0x03000000 + b), 0#32, 0#32⟩)))
    else none) ∧
  assemble .nop = some [.request (.command ⟨0x00000000#32, 0#32, 0#32⟩)] ∧
  assemble .init = some [.request (.command ⟨0x01000000#32, 0#32, 0#32⟩)] ∧ assemble .seed = assemble .init ∧
  assemble .fin = some [.request (.command ⟨0x05000000#32, 0#32, 0#32⟩)] ∧
  assemble .rdStatus = some [.request (.read 0#2)] ∧ assemble .rdAcc = some [.request (.read 1#2)] ∧
  assemble .save = assemble .rdAcc ∧ assemble .rdResult = some [.request (.read 2#2)] ∧
  assemble .rd3 = some [.request (.read 3#2)] ∧ assemble .wait = some [.wait]
end

