-- ==== Sys2Proof/Laws/State.lean ====
section
/-! SUPPORT. One lemma per field of State per named update, all by rfl: no later proof unfolds a record update. -/

namespace Sys2Proof.Machine

variable (s : State)

/-! ### setAcc -/

@[simp] theorem setAcc_acc (v : Word) : (setAcc s v).acc = v := rfl
@[simp] theorem setAcc_result (v : Word) : (setAcc s v).result = s.result := rfl
@[simp] theorem setAcc_illegal (v : Word) : (setAcc s v).illegal = s.illegal := rfl
@[simp] theorem setAcc_bitcnt (v : Word) : (setAcc s v).bitcnt = s.bitcnt := rfl
@[simp] theorem setAcc_seq (v : Word) : (setAcc s v).seq = s.seq := rfl
@[simp] theorem setAcc_ptr (v : Word) : (setAcc s v).ptr = s.ptr := rfl
@[simp] theorem setAcc_rem (v : Word) : (setAcc s v).rem = s.rem := rfl
@[simp] theorem setAcc_finq (v : Word) : (setAcc s v).finq = s.finq := rfl
@[simp] theorem setAcc_wrap (v : Word) : (setAcc s v).wrap = s.wrap := rfl
@[simp] theorem setAcc_mem (v : Word) : (setAcc s v).mem = s.mem := rfl
@[simp] theorem setAcc_readable (v : Word) : (setAcc s v).readable = s.readable := rfl
@[simp] theorem setAcc_host (v : Word) : (setAcc s v).host = s.host := rfl
@[simp] theorem setAcc_turns (v : Word) : (setAcc s v).turns = s.turns := rfl
@[simp] theorem setAcc_reads (v : Word) : (setAcc s v).reads = s.reads := rfl
@[simp] theorem setAcc_fetches (v : Word) : (setAcc s v).fetches = s.fetches := rfl

/-! ### finalizeResult -/

@[simp] theorem finalizeResult_acc : (finalizeResult s).acc = s.acc := rfl
@[simp] theorem finalizeResult_result : (finalizeResult s).result = finalize s.acc := rfl
@[simp] theorem finalizeResult_illegal : (finalizeResult s).illegal = s.illegal := rfl
@[simp] theorem finalizeResult_bitcnt : (finalizeResult s).bitcnt = s.bitcnt := rfl
@[simp] theorem finalizeResult_seq : (finalizeResult s).seq = s.seq := rfl
@[simp] theorem finalizeResult_ptr : (finalizeResult s).ptr = s.ptr := rfl
@[simp] theorem finalizeResult_rem : (finalizeResult s).rem = s.rem := rfl
@[simp] theorem finalizeResult_finq : (finalizeResult s).finq = s.finq := rfl
@[simp] theorem finalizeResult_wrap : (finalizeResult s).wrap = s.wrap := rfl
@[simp] theorem finalizeResult_mem : (finalizeResult s).mem = s.mem := rfl
@[simp] theorem finalizeResult_readable : (finalizeResult s).readable = s.readable := rfl
@[simp] theorem finalizeResult_host : (finalizeResult s).host = s.host := rfl
@[simp] theorem finalizeResult_turns : (finalizeResult s).turns = s.turns := rfl
@[simp] theorem finalizeResult_reads : (finalizeResult s).reads = s.reads := rfl
@[simp] theorem finalizeResult_fetches : (finalizeResult s).fetches = s.fetches := rfl

/-! ### setIllegal -/

@[simp] theorem setIllegal_acc : (setIllegal s).acc = s.acc := rfl
@[simp] theorem setIllegal_result : (setIllegal s).result = s.result := rfl
@[simp] theorem setIllegal_illegal : (setIllegal s).illegal = true := rfl
@[simp] theorem setIllegal_bitcnt : (setIllegal s).bitcnt = s.bitcnt := rfl
@[simp] theorem setIllegal_seq : (setIllegal s).seq = s.seq := rfl
@[simp] theorem setIllegal_ptr : (setIllegal s).ptr = s.ptr := rfl
@[simp] theorem setIllegal_rem : (setIllegal s).rem = s.rem := rfl
@[simp] theorem setIllegal_finq : (setIllegal s).finq = s.finq := rfl
@[simp] theorem setIllegal_wrap : (setIllegal s).wrap = s.wrap := rfl
@[simp] theorem setIllegal_mem : (setIllegal s).mem = s.mem := rfl
@[simp] theorem setIllegal_readable : (setIllegal s).readable = s.readable := rfl
@[simp] theorem setIllegal_host : (setIllegal s).host = s.host := rfl
@[simp] theorem setIllegal_turns : (setIllegal s).turns = s.turns := rfl
@[simp] theorem setIllegal_reads : (setIllegal s).reads = s.reads := rfl
@[simp] theorem setIllegal_fetches : (setIllegal s).fetches = s.fetches := rfl

/-! ### feedByte -/

@[simp] theorem feedByte_acc (b : Byte) : (feedByte s b).acc = xorByte s.acc b := rfl
@[simp] theorem feedByte_result (b : Byte) : (feedByte s b).result = s.result := rfl
@[simp] theorem feedByte_illegal (b : Byte) : (feedByte s b).illegal = s.illegal := rfl
@[simp] theorem feedByte_bitcnt (b : Byte) : (feedByte s b).bitcnt = 8 := rfl
@[simp] theorem feedByte_seq (b : Byte) : (feedByte s b).seq = s.seq := rfl
@[simp] theorem feedByte_ptr (b : Byte) : (feedByte s b).ptr = s.ptr := rfl
@[simp] theorem feedByte_rem (b : Byte) : (feedByte s b).rem = s.rem := rfl
@[simp] theorem feedByte_finq (b : Byte) : (feedByte s b).finq = s.finq := rfl
@[simp] theorem feedByte_wrap (b : Byte) : (feedByte s b).wrap = s.wrap := rfl
@[simp] theorem feedByte_mem (b : Byte) : (feedByte s b).mem = s.mem := rfl
@[simp] theorem feedByte_readable (b : Byte) : (feedByte s b).readable = s.readable := rfl
@[simp] theorem feedByte_host (b : Byte) : (feedByte s b).host = s.host := rfl
@[simp] theorem feedByte_turns (b : Byte) : (feedByte s b).turns = s.turns := rfl
@[simp] theorem feedByte_reads (b : Byte) : (feedByte s b).reads = s.reads := rfl
@[simp] theorem feedByte_fetches (b : Byte) : (feedByte s b).fetches = s.fetches := rfl

/-! ### startSequencer -/

@[simp] theorem startSequencer_acc (q : SeqMode) (p : Word) (f : Bool) : (startSequencer s q p f).acc = s.acc := rfl
@[simp] theorem startSequencer_result (q : SeqMode) (p : Word) (f : Bool) : (startSequencer s q p f).result = s.result := rfl
@[simp] theorem startSequencer_illegal (q : SeqMode) (p : Word) (f : Bool) : (startSequencer s q p f).illegal = s.illegal := rfl
@[simp] theorem startSequencer_bitcnt (q : SeqMode) (p : Word) (f : Bool) : (startSequencer s q p f).bitcnt = s.bitcnt := rfl
@[simp] theorem startSequencer_seq (q : SeqMode) (p : Word) (f : Bool) : (startSequencer s q p f).seq = q := rfl
@[simp] theorem startSequencer_ptr (q : SeqMode) (p : Word) (f : Bool) : (startSequencer s q p f).ptr = p := rfl
@[simp] theorem startSequencer_rem (q : SeqMode) (p : Word) (f : Bool) : (startSequencer s q p f).rem = s.rem := rfl
@[simp] theorem startSequencer_finq (q : SeqMode) (p : Word) (f : Bool) : (startSequencer s q p f).finq = f := rfl
@[simp] theorem startSequencer_wrap (q : SeqMode) (p : Word) (f : Bool) : (startSequencer s q p f).wrap = false := rfl
@[simp] theorem startSequencer_mem (q : SeqMode) (p : Word) (f : Bool) : (startSequencer s q p f).mem = s.mem := rfl
@[simp] theorem startSequencer_readable (q : SeqMode) (p : Word) (f : Bool) : (startSequencer s q p f).readable = s.readable := rfl
@[simp] theorem startSequencer_host (q : SeqMode) (p : Word) (f : Bool) : (startSequencer s q p f).host = s.host := rfl
@[simp] theorem startSequencer_turns (q : SeqMode) (p : Word) (f : Bool) : (startSequencer s q p f).turns = s.turns := rfl
@[simp] theorem startSequencer_reads (q : SeqMode) (p : Word) (f : Bool) : (startSequencer s q p f).reads = s.reads := rfl
@[simp] theorem startSequencer_fetches (q : SeqMode) (p : Word) (f : Bool) : (startSequencer s q p f).fetches = s.fetches := rfl

/-! ### setRem -/

@[simp] theorem setRem_acc (n : Word) : (setRem s n).acc = s.acc := rfl
@[simp] theorem setRem_result (n : Word) : (setRem s n).result = s.result := rfl
@[simp] theorem setRem_illegal (n : Word) : (setRem s n).illegal = s.illegal := rfl
@[simp] theorem setRem_bitcnt (n : Word) : (setRem s n).bitcnt = s.bitcnt := rfl
@[simp] theorem setRem_seq (n : Word) : (setRem s n).seq = s.seq := rfl
@[simp] theorem setRem_ptr (n : Word) : (setRem s n).ptr = s.ptr := rfl
@[simp] theorem setRem_rem (n : Word) : (setRem s n).rem = n := rfl
@[simp] theorem setRem_finq (n : Word) : (setRem s n).finq = s.finq := rfl
@[simp] theorem setRem_wrap (n : Word) : (setRem s n).wrap = s.wrap := rfl
@[simp] theorem setRem_mem (n : Word) : (setRem s n).mem = s.mem := rfl
@[simp] theorem setRem_readable (n : Word) : (setRem s n).readable = s.readable := rfl
@[simp] theorem setRem_host (n : Word) : (setRem s n).host = s.host := rfl
@[simp] theorem setRem_turns (n : Word) : (setRem s n).turns = s.turns := rfl
@[simp] theorem setRem_reads (n : Word) : (setRem s n).reads = s.reads := rfl
@[simp] theorem setRem_fetches (n : Word) : (setRem s n).fetches = s.fetches := rfl

/-! ### advancePtr -/

@[simp] theorem advancePtr_acc : (advancePtr s).acc = s.acc := rfl
@[simp] theorem advancePtr_result : (advancePtr s).result = s.result := rfl
@[simp] theorem advancePtr_illegal : (advancePtr s).illegal = s.illegal := rfl
@[simp] theorem advancePtr_bitcnt : (advancePtr s).bitcnt = s.bitcnt := rfl
@[simp] theorem advancePtr_seq : (advancePtr s).seq = s.seq := rfl
@[simp] theorem advancePtr_ptr : (advancePtr s).ptr = (inc s.ptr s.wrap).1 := rfl
@[simp] theorem advancePtr_rem : (advancePtr s).rem = s.rem := rfl
@[simp] theorem advancePtr_finq : (advancePtr s).finq = s.finq := rfl
@[simp] theorem advancePtr_wrap : (advancePtr s).wrap = (inc s.ptr s.wrap).2 := rfl
@[simp] theorem advancePtr_mem : (advancePtr s).mem = s.mem := rfl
@[simp] theorem advancePtr_readable : (advancePtr s).readable = s.readable := rfl
@[simp] theorem advancePtr_host : (advancePtr s).host = s.host := rfl
@[simp] theorem advancePtr_turns : (advancePtr s).turns = s.turns := rfl
@[simp] theorem advancePtr_reads : (advancePtr s).reads = s.reads := rfl
@[simp] theorem advancePtr_fetches : (advancePtr s).fetches = s.fetches := rfl

/-! ### recordFetch -/

@[simp] theorem recordFetch_acc : (recordFetch s).acc = s.acc := rfl
@[simp] theorem recordFetch_result : (recordFetch s).result = s.result := rfl
@[simp] theorem recordFetch_illegal : (recordFetch s).illegal = s.illegal := rfl
@[simp] theorem recordFetch_bitcnt : (recordFetch s).bitcnt = s.bitcnt := rfl
@[simp] theorem recordFetch_seq : (recordFetch s).seq = s.seq := rfl
@[simp] theorem recordFetch_ptr : (recordFetch s).ptr = s.ptr := rfl
@[simp] theorem recordFetch_rem : (recordFetch s).rem = s.rem := rfl
@[simp] theorem recordFetch_finq : (recordFetch s).finq = s.finq := rfl
@[simp] theorem recordFetch_wrap : (recordFetch s).wrap = s.wrap := rfl
@[simp] theorem recordFetch_mem : (recordFetch s).mem = s.mem := rfl
@[simp] theorem recordFetch_readable : (recordFetch s).readable = s.readable := rfl
@[simp] theorem recordFetch_host : (recordFetch s).host = s.host := rfl
@[simp] theorem recordFetch_turns : (recordFetch s).turns = s.turns := rfl
@[simp] theorem recordFetch_reads : (recordFetch s).reads = s.reads := rfl
@[simp] theorem recordFetch_fetches : (recordFetch s).fetches = s.ptr :: s.fetches := rfl

/-! ### complete -/

@[simp] theorem complete_acc : (complete s).acc = s.acc := rfl
@[simp] theorem complete_result : (complete s).result = if s.finq then finalize s.acc else s.result := rfl
@[simp] theorem complete_illegal : (complete s).illegal = s.illegal := rfl
@[simp] theorem complete_bitcnt : (complete s).bitcnt = s.bitcnt := rfl
@[simp] theorem complete_seq : (complete s).seq = .none := rfl
@[simp] theorem complete_ptr : (complete s).ptr = s.ptr := rfl
@[simp] theorem complete_rem : (complete s).rem = s.rem := rfl
@[simp] theorem complete_finq : (complete s).finq = false := rfl
@[simp] theorem complete_wrap : (complete s).wrap = false := rfl
@[simp] theorem complete_mem : (complete s).mem = s.mem := rfl
@[simp] theorem complete_readable : (complete s).readable = s.readable := rfl
@[simp] theorem complete_host : (complete s).host = s.host := rfl
@[simp] theorem complete_turns : (complete s).turns = s.turns := rfl
@[simp] theorem complete_reads : (complete s).reads = s.reads := rfl
@[simp] theorem complete_fetches : (complete s).fetches = s.fetches := rfl

/-! ### returnRead -/

@[simp] theorem returnRead_acc (a : BitVec 2) (v : Word) : (returnRead s a v).acc = s.acc := rfl
@[simp] theorem returnRead_result (a : BitVec 2) (v : Word) : (returnRead s a v).result = s.result := rfl
@[simp] theorem returnRead_illegal (a : BitVec 2) (v : Word) : (returnRead s a v).illegal = s.illegal := rfl
@[simp] theorem returnRead_bitcnt (a : BitVec 2) (v : Word) : (returnRead s a v).bitcnt = s.bitcnt := rfl
@[simp] theorem returnRead_seq (a : BitVec 2) (v : Word) : (returnRead s a v).seq = s.seq := rfl
@[simp] theorem returnRead_ptr (a : BitVec 2) (v : Word) : (returnRead s a v).ptr = s.ptr := rfl
@[simp] theorem returnRead_rem (a : BitVec 2) (v : Word) : (returnRead s a v).rem = s.rem := rfl
@[simp] theorem returnRead_finq (a : BitVec 2) (v : Word) : (returnRead s a v).finq = s.finq := rfl
@[simp] theorem returnRead_wrap (a : BitVec 2) (v : Word) : (returnRead s a v).wrap = s.wrap := rfl
@[simp] theorem returnRead_mem (a : BitVec 2) (v : Word) : (returnRead s a v).mem = s.mem := rfl
@[simp] theorem returnRead_readable (a : BitVec 2) (v : Word) : (returnRead s a v).readable = s.readable := rfl
@[simp] theorem returnRead_host (a : BitVec 2) (v : Word) : (returnRead s a v).host = s.host := rfl
@[simp] theorem returnRead_turns (a : BitVec 2) (v : Word) : (returnRead s a v).turns = s.turns := rfl
@[simp] theorem returnRead_reads (a : BitVec 2) (v : Word) : (returnRead s a v).reads = ⟨a, v⟩ :: s.reads := rfl
@[simp] theorem returnRead_fetches (a : BitVec 2) (v : Word) : (returnRead s a v).fetches = s.fetches := rfl

/-! ### dequeue -/

@[simp] theorem dequeue_acc : (dequeue s).acc = s.acc := rfl
@[simp] theorem dequeue_result : (dequeue s).result = s.result := rfl
@[simp] theorem dequeue_illegal : (dequeue s).illegal = s.illegal := rfl
@[simp] theorem dequeue_bitcnt : (dequeue s).bitcnt = s.bitcnt := rfl
@[simp] theorem dequeue_seq : (dequeue s).seq = s.seq := rfl
@[simp] theorem dequeue_ptr : (dequeue s).ptr = s.ptr := rfl
@[simp] theorem dequeue_rem : (dequeue s).rem = s.rem := rfl
@[simp] theorem dequeue_finq : (dequeue s).finq = s.finq := rfl
@[simp] theorem dequeue_wrap : (dequeue s).wrap = s.wrap := rfl
@[simp] theorem dequeue_mem : (dequeue s).mem = s.mem := rfl
@[simp] theorem dequeue_readable : (dequeue s).readable = s.readable := rfl
@[simp] theorem dequeue_host : (dequeue s).host = s.host.tail := rfl
@[simp] theorem dequeue_turns : (dequeue s).turns = s.turns := rfl
@[simp] theorem dequeue_reads : (dequeue s).reads = s.reads := rfl
@[simp] theorem dequeue_fetches : (dequeue s).fetches = s.fetches := rfl

/-! ### dropTurn -/

@[simp] theorem dropTurn_acc : (dropTurn s).acc = s.acc := rfl
@[simp] theorem dropTurn_result : (dropTurn s).result = s.result := rfl
@[simp] theorem dropTurn_illegal : (dropTurn s).illegal = s.illegal := rfl
@[simp] theorem dropTurn_bitcnt : (dropTurn s).bitcnt = s.bitcnt := rfl
@[simp] theorem dropTurn_seq : (dropTurn s).seq = s.seq := rfl
@[simp] theorem dropTurn_ptr : (dropTurn s).ptr = s.ptr := rfl
@[simp] theorem dropTurn_rem : (dropTurn s).rem = s.rem := rfl
@[simp] theorem dropTurn_finq : (dropTurn s).finq = s.finq := rfl
@[simp] theorem dropTurn_wrap : (dropTurn s).wrap = s.wrap := rfl
@[simp] theorem dropTurn_mem : (dropTurn s).mem = s.mem := rfl
@[simp] theorem dropTurn_readable : (dropTurn s).readable = s.readable := rfl
@[simp] theorem dropTurn_host : (dropTurn s).host = s.host := rfl
@[simp] theorem dropTurn_turns : (dropTurn s).turns = s.turns.tail := rfl
@[simp] theorem dropTurn_reads : (dropTurn s).reads = s.reads := rfl
@[simp] theorem dropTurn_fetches : (dropTurn s).fetches = s.fetches := rfl

/-! ### writeMem -/

@[simp] theorem writeMem_acc (a : Word) (b : Byte) : (writeMem s a b).acc = s.acc := rfl
@[simp] theorem writeMem_result (a : Word) (b : Byte) : (writeMem s a b).result = s.result := rfl
@[simp] theorem writeMem_illegal (a : Word) (b : Byte) : (writeMem s a b).illegal = s.illegal := rfl
@[simp] theorem writeMem_bitcnt (a : Word) (b : Byte) : (writeMem s a b).bitcnt = s.bitcnt := rfl
@[simp] theorem writeMem_seq (a : Word) (b : Byte) : (writeMem s a b).seq = s.seq := rfl
@[simp] theorem writeMem_ptr (a : Word) (b : Byte) : (writeMem s a b).ptr = s.ptr := rfl
@[simp] theorem writeMem_rem (a : Word) (b : Byte) : (writeMem s a b).rem = s.rem := rfl
@[simp] theorem writeMem_finq (a : Word) (b : Byte) : (writeMem s a b).finq = s.finq := rfl
@[simp] theorem writeMem_wrap (a : Word) (b : Byte) : (writeMem s a b).wrap = s.wrap := rfl
@[simp] theorem writeMem_mem (a : Word) (b : Byte) : (writeMem s a b).mem = storeByte s.mem a.toNat b := rfl
@[simp] theorem writeMem_readable (a : Word) (b : Byte) : (writeMem s a b).readable = s.readable := rfl
@[simp] theorem writeMem_host (a : Word) (b : Byte) : (writeMem s a b).host = s.host := rfl
@[simp] theorem writeMem_turns (a : Word) (b : Byte) : (writeMem s a b).turns = s.turns := rfl
@[simp] theorem writeMem_reads (a : Word) (b : Byte) : (writeMem s a b).reads = s.reads := rfl
@[simp] theorem writeMem_fetches (a : Word) (b : Byte) : (writeMem s a b).fetches = s.fetches := rfl

/-! ### resetBlock -/

@[simp] theorem resetBlock_acc : (resetBlock s).acc = Config.initial := rfl
@[simp] theorem resetBlock_result : (resetBlock s).result = 0#32 := rfl
@[simp] theorem resetBlock_illegal : (resetBlock s).illegal = false := rfl
@[simp] theorem resetBlock_bitcnt : (resetBlock s).bitcnt = 0 := rfl
@[simp] theorem resetBlock_seq : (resetBlock s).seq = .none := rfl
@[simp] theorem resetBlock_ptr : (resetBlock s).ptr = 0#32 := rfl
@[simp] theorem resetBlock_rem : (resetBlock s).rem = 0#32 := rfl
@[simp] theorem resetBlock_finq : (resetBlock s).finq = false := rfl
@[simp] theorem resetBlock_wrap : (resetBlock s).wrap = false := rfl
@[simp] theorem resetBlock_mem : (resetBlock s).mem = s.mem := rfl
@[simp] theorem resetBlock_readable : (resetBlock s).readable = s.readable := rfl
@[simp] theorem resetBlock_host : (resetBlock s).host = s.host := rfl
@[simp] theorem resetBlock_turns : (resetBlock s).turns = s.turns := rfl
@[simp] theorem resetBlock_reads : (resetBlock s).reads = s.reads := rfl
@[simp] theorem resetBlock_fetches : (resetBlock s).fetches = s.fetches := rfl

/-! ### engineShift -/

@[simp] theorem engineShift_acc : (engineShift s).acc = bitStep s.acc := rfl
@[simp] theorem engineShift_result : (engineShift s).result = s.result := rfl
@[simp] theorem engineShift_illegal : (engineShift s).illegal = s.illegal := rfl
@[simp] theorem engineShift_bitcnt : (engineShift s).bitcnt = s.bitcnt - 1 := rfl
@[simp] theorem engineShift_seq : (engineShift s).seq = s.seq := rfl
@[simp] theorem engineShift_ptr : (engineShift s).ptr = s.ptr := rfl
@[simp] theorem engineShift_rem : (engineShift s).rem = s.rem := rfl
@[simp] theorem engineShift_finq : (engineShift s).finq = s.finq := rfl
@[simp] theorem engineShift_wrap : (engineShift s).wrap = s.wrap := rfl
@[simp] theorem engineShift_mem : (engineShift s).mem = s.mem := rfl
@[simp] theorem engineShift_readable : (engineShift s).readable = s.readable := rfl
@[simp] theorem engineShift_host : (engineShift s).host = s.host := rfl
@[simp] theorem engineShift_turns : (engineShift s).turns = s.turns := rfl
@[simp] theorem engineShift_reads : (engineShift s).reads = s.reads := rfl
@[simp] theorem engineShift_fetches : (engineShift s).fetches = s.fetches := rfl

end Sys2Proof.Machine
end

