-- ==== Sys2Proof/Laws/Ops.lean ====
section
/-! SUPPORT. What the shared operations can do, said once: acceptance, the flags, the address increment, the pure functions. -/

namespace Sys2Proof.Machine

/-- The accept step: nothing with BUSY = 1, the command's effect otherwise. -/
theorem accept_next {s t : State} {f : State → State} (h : accept s f = .next t) :
    (busy s = true ∧ t = s) ∨ (busy s = false ∧ t = f s) := by
  unfold accept at h
  split at h
  · exact .inl ⟨‹_›, by injection h with h; exact h.symm⟩
  · exact .inr ⟨Bool.eq_false_iff.mpr ‹_›, by injection h with h; exact h.symm⟩

theorem accept_idle {s : State} {f : State → State} (h : busy s = false) : accept s f = .next (f s) := by
  simp [accept, h]

theorem accept_busy {s : State} {f : State → State} (h : busy s = true) : accept s f = .next s := by
  simp [accept, h]

theorem busy_eq_false {s : State} : busy s = false ↔ s.bitcnt = 0 ∧ s.seq = .none := by
  simp [busy]

/-- BUSY looks at BITCNT and SEQ alone. -/
theorem busy_congr {s t : State} (hb : t.bitcnt = s.bitcnt) (hq : t.seq = s.seq) : busy t = busy s := by
  simp [busy, hb, hq]

/-- The increment is p + 1 modulo 2^32, and sets WRAP exactly as it passes the top. -/
theorem inc_eq (p : Word) (w : Bool) : inc p w = (p + 1#32, w || p == 0xFFFFFFFF#32) := by
  unfold inc
  split
  · subst_vars; simp
  · simp_all

theorem bitSteps_succ_last (n : Nat) (a : Word) : bitSteps (n + 1) a = bitStep (bitSteps n a) := by
  induction n generalizing a with
  | zero => rfl
  | succ n ih => rw [bitSteps, ih]; rfl

end Sys2Proof.Machine
end

