-- ==== Sys2Proof/Laws/Engine.lean ====
section
/-! SUPPORT. What an ENGINE micro-step can do, said once. -/

namespace Sys2Proof.Machine

/-- The micro-step R89 gives, with the state it is enabled in. -/
theorem engineNext_cases {s : State} {e : EngineStep} (h : engineNext s = some e) :
    (e = .shift ∧ s.bitcnt ≠ 0) ∨
    (e = .endBuf ∧ s.bitcnt = 0 ∧ s.seq = .buf ∧ s.rem = 0#32) ∨
    (e = .fetchBuf ∧ s.bitcnt = 0 ∧ s.seq = .buf ∧ s.rem ≠ 0#32 ∧ fetchAdmitted s = true) ∨
    (e = .endStr ∧ s.bitcnt = 0 ∧ s.seq = .str ∧ fetchAdmitted s = true ∧ readMem s s.ptr = 0#8) ∨
    (e = .fetchStr ∧ s.bitcnt = 0 ∧ s.seq = .str ∧ fetchAdmitted s = true ∧ readMem s s.ptr ≠ 0#8) := by
  unfold engineNext at h
  split at h
  · injection h with h
    exact .inl ⟨h.symm, ‹_›⟩
  · have hb : s.bitcnt = 0 := not_not.mp ‹_›
    split at h
    · cases h
    · split at h
      · injection h with h
        exact .inr (.inl ⟨h.symm, hb, ‹_›, ‹_›⟩)
      · split at h
        · injection h with h
          exact .inr (.inr (.inl ⟨h.symm, hb, ‹_›, ‹_›, ‹_›⟩))
        · cases h
    · split at h
      · split at h
        · injection h with h
          exact .inr (.inr (.inr (.inl ⟨h.symm, hb, ‹_›, ‹_›, ‹_›⟩)))
        · injection h with h
          exact .inr (.inr (.inr (.inr ⟨h.symm, hb, ‹_›, ‹_›, ‹_›⟩)))
      · cases h

/-- What no micro-step changes: BM, the parameter, the HOST's side, ILLEGAL. -/
theorem engineEffect_frame (s : State) (e : EngineStep) :
    (engineEffect s e).mem = s.mem ∧ (engineEffect s e).readable = s.readable ∧ (engineEffect s e).host = s.host ∧
      (engineEffect s e).turns = s.turns ∧ (engineEffect s e).reads = s.reads ∧
      (engineEffect s e).illegal = s.illegal := by
  cases e <;> exact ⟨rfl, rfl, rfl, rfl, rfl, rfl⟩

/-- An idle block has no micro-step. -/
theorem engineNext_idle {s : State} (h : busy s = false) : engineNext s = none := by
  obtain ⟨hb, hq⟩ := busy_eq_false.mp h
  simp [engineNext, hb, hq]

end Sys2Proof.Machine
end

