-- ==== Sys2Proof/Laws/Memory.lean ====
section
/-! SUPPORT. BM: read after write, and the canonical form that every memory operation keeps. -/

namespace Sys2Proof.Machine

theorem Memory.wf_tail {c : Host.Cell} {m : Memory} (h : Memory.wf (c :: m) = true) : Memory.wf m = true := by
  obtain ⟨a, b⟩ := c
  cases m with
  | nil => rfl
  | cons d m =>
    obtain ⟨a', b'⟩ := d
    simp only [Memory.wf, Bool.and_eq_true] at h
    exact h.2

/-- The addresses of a canonical memory lie above the address in front of it. -/
theorem Memory.wf_head_lt {a : Nat} {b : Byte} {m : Memory} (h : Memory.wf ((a, b) :: m) = true) :
    ∀ c ∈ m, a < c.1 := by
  induction m generalizing a b with
  | nil => simp
  | cons d m ih =>
    obtain ⟨a', b'⟩ := d
    simp only [Memory.wf, Bool.and_eq_true, decide_eq_true_eq] at h
    intro c hc
    rcases List.mem_cons.mp hc with rfl | hc
    · exact h.1.1
    · exact lt_trans h.1.1 (ih h.2 c hc)

/-- A canonical memory with an entry in front of it that is below all of it and says something. -/
theorem Memory.wf_cons {a : Nat} {b : Byte} {m : Memory} (hm : Memory.wf m = true) (ha : a < 2 ^ 32)
    (hb : b ≠ unlistedByte) (hlt : ∀ c ∈ m, a < c.1) : Memory.wf ((a, b) :: m) = true := by
  cases m with
  | nil =>
    simp only [Memory.wf, Bool.and_eq_true, decide_eq_true_eq, bne_iff_ne]
    exact ⟨ha, hb⟩
  | cons d m =>
    obtain ⟨a', b'⟩ := d
    simp only [Memory.wf, Bool.and_eq_true, decide_eq_true_eq, bne_iff_ne]
    exact ⟨⟨hlt _ List.mem_cons_self, hb⟩, hm⟩

theorem Memory.wf_head_ne {a : Nat} {b : Byte} {m : Memory} (h : Memory.wf ((a, b) :: m) = true) :
    b ≠ unlistedByte := by
  cases m with
  | nil => simp [Memory.wf] at h; exact h.2
  | cons d m =>
    obtain ⟨a', b'⟩ := d
    simp only [Memory.wf, Bool.and_eq_true, bne_iff_ne] at h
    exact h.1.2

theorem Memory.wf_head_bound {a : Nat} {b : Byte} {m : Memory} (h : Memory.wf ((a, b) :: m) = true) : a < 2 ^ 32 := by
  induction m generalizing a b with
  | nil => simp [Memory.wf] at h; omega
  | cons d m ih =>
    obtain ⟨a', b'⟩ := d
    have hlt := Memory.wf_head_lt h _ List.mem_cons_self
    have := ih (Memory.wf_tail h)
    simp only at hlt
    omega

theorem mem_consCell {k : Nat} {v : Byte} {m : Memory} {c : Host.Cell} (h : c ∈ consCell k v m) : c.1 = k ∨ c ∈ m := by
  unfold consCell at h
  split at h
  · exact .inr h
  · rcases List.mem_cons.mp h with rfl | h
    · exact .inl rfl
    · exact .inr h

theorem mem_storeByte {m : Memory} {k : Nat} {v : Byte} {c : Host.Cell} (h : c ∈ storeByte m k v) :
    c.1 = k ∨ c ∈ m := by
  induction m with
  | nil => exact mem_consCell h
  | cons d m ih =>
    obtain ⟨a, b⟩ := d
    simp only [storeByte] at h
    split at h
    · exact mem_consCell h
    · split at h
      · rcases mem_consCell h with h | h
        · exact .inl h
        · exact .inr (List.mem_cons_of_mem _ h)
      · rcases List.mem_cons.mp h with rfl | h
        · exact .inr List.mem_cons_self
        · rcases ih h with h | h
          · exact .inl h
          · exact .inr (List.mem_cons_of_mem _ h)

theorem Memory.wf_consCell {k : Nat} {v : Byte} {m : Memory} (hm : Memory.wf m = true) (hk : k < 2 ^ 32)
    (hlt : ∀ c ∈ m, k < c.1) : Memory.wf (consCell k v m) = true := by
  unfold consCell
  split
  · exact hm
  · exact Memory.wf_cons hm hk ‹_› hlt

/-- The one memory operation keeps the canonical form. -/
theorem storeByte_wf {m : Memory} {k : Nat} {v : Byte} (hm : Memory.wf m = true) (hk : k < 2 ^ 32) :
    Memory.wf (storeByte m k v) = true := by
  induction m with
  | nil => exact Memory.wf_consCell rfl hk (by simp)
  | cons d m ih =>
    obtain ⟨a, b⟩ := d
    have hlt := Memory.wf_head_lt hm
    simp only [storeByte]
    split
    · exact Memory.wf_consCell hm hk (by
        intro c hc
        rcases List.mem_cons.mp hc with rfl | hc
        · assumption
        · exact lt_trans ‹_› (hlt c hc))
    · split
      · subst_vars
        exact Memory.wf_consCell (Memory.wf_tail hm) hk hlt
      · refine Memory.wf_cons (ih (Memory.wf_tail hm)) (Memory.wf_head_bound hm) (Memory.wf_head_ne hm) ?_
        intro c hc
        rcases mem_storeByte hc with h | h
        · omega
        · exact hlt c h

/-- `writeMem` keeps the canonical form of BM. -/
theorem writeMem_wf {s : State} {a : Word} {b : Byte} (h : Memory.wf s.mem = true) :
    Memory.wf (writeMem s a b).mem = true :=
  storeByte_wf h a.isLt

theorem reset_mem_wf : Memory.wf State.reset.mem = true := rfl

/-- An address below all of a memory's addresses is not listed. -/
theorem lookupByte_below {m : Memory} {k : Nat} (h : ∀ c ∈ m, k < c.1) : lookupByte m k = unlistedByte := by
  induction m with
  | nil => rfl
  | cons d m ih =>
    obtain ⟨a, b⟩ := d
    have := h _ List.mem_cons_self
    simp only [lookupByte]
    rw [if_neg (by simp only at this; omega)]
    exact ih fun c hc => h c (List.mem_cons_of_mem _ hc)

theorem lookupByte_consCell {m : Memory} {k j : Nat} {v : Byte} (hk : lookupByte m k = unlistedByte) :
    lookupByte (consCell k v m) j = if j = k then v else lookupByte m j := by
  unfold consCell
  split
  · split
    · subst_vars; exact hk
    · rfl
  · rfl

/-- Read after write, at the same address and at every other. -/
theorem lookupByte_storeByte {m : Memory} {k j : Nat} {v : Byte} (hm : Memory.wf m = true) :
    lookupByte (storeByte m k v) j = if j = k then v else lookupByte m j := by
  induction m with
  | nil => exact lookupByte_consCell rfl
  | cons d m ih =>
    obtain ⟨a, b⟩ := d
    have hlt := Memory.wf_head_lt hm
    simp only [storeByte]
    split
    · refine lookupByte_consCell (lookupByte_below ?_)
      intro c hc
      rcases List.mem_cons.mp hc with rfl | hc
      · assumption
      · exact lt_trans ‹_› (hlt c hc)
    · split
      · subst_vars
        rw [lookupByte_consCell (lookupByte_below hlt)]
        simp only [lookupByte]
        split <;> simp_all
      · simp only [lookupByte, ih (Memory.wf_tail hm)]
        split
        · rw [if_neg (by omega)]
        · rfl

/-- A byte of BM after the HOST wrote one. -/
theorem readMem_writeMem {s : State} {a x : Word} {b : Byte} (h : Memory.wf s.mem = true) :
    readMem (writeMem s a b) x = if x = a then b else readMem s x := by
  unfold readMem writeMem
  rw [lookupByte_storeByte h]
  simp only [BitVec.toNat_inj]

end Sys2Proof.Machine
end

