-- ==== Sys2Proof/Laws/PerInstr.lean ====
section
/-! SUPPORT. Per instruction: the encoding of an instruction selects its own row of R64 (or its own read address, R71). -/

namespace Sys2Proof.Laws

/-- The index in `commandRows` of the row an instruction is listed in (R64), or its read address (R71). -/
def rowIndex : Instr → Nat
  | .nop => 0
  | .init => 1
  | .load _ => 2
  | .updb _ => 3
  | .upd _ _ => 4
  | .fin => 5
  | .bufcrc _ _ => 6
  | .strcrc _ => 7
  | .rdStatus => 0
  | .rdAcc => 1
  | .rdResult => 2
  | .rdRsv3 => 3

/-- The encoded request is on the row the table gives the instruction. -/
def OwnRow.Statement (i : Instr) : Prop :=
  match encode i with
  | .command t => ∃ r, commandRows[rowIndex i]? = some r ∧ rowsSelecting t.cmd = [r]
  | .read a => a.toNat = rowIndex i

theorem OwnRow.nop : OwnRow.Statement .nop := ⟨_, rfl, by decide⟩

theorem OwnRow.init : OwnRow.Statement .init := ⟨_, rfl, by decide⟩

theorem OwnRow.load (value : Word) : OwnRow.Statement (.load value) :=
  ⟨_, rfl, (by decide : rowsSelecting 0x02000000#32 = [⟨0x02000000#32, 0xFFFFFFFF#32⟩])⟩

theorem OwnRow.updb (imm : Byte) : OwnRow.Statement (.updb imm) := by
  refine ⟨_, rfl, ?_⟩
  show rowsSelecting (0x03000000#32 ||| imm.setWidth 32) = [⟨0x03000000#32, 0xFFFFFF00#32⟩]
  revert imm
  decide

theorem OwnRow.upd (addr len : Word) : OwnRow.Statement (.upd addr len) :=
  ⟨_, rfl, (by decide : rowsSelecting 0x04000000#32 = [⟨0x04000000#32, 0xFFFFFFFF#32⟩])⟩

theorem OwnRow.fin : OwnRow.Statement .fin := ⟨_, rfl, by decide⟩

theorem OwnRow.bufcrc (addr len : Word) : OwnRow.Statement (.bufcrc addr len) :=
  ⟨_, rfl, (by decide : rowsSelecting 0x06000000#32 = [⟨0x06000000#32, 0xFFFFFFFF#32⟩])⟩

theorem OwnRow.strcrc (addr : Word) : OwnRow.Statement (.strcrc addr) :=
  ⟨_, rfl, (by decide : rowsSelecting 0x07000000#32 = [⟨0x07000000#32, 0xFFFFFFFF#32⟩])⟩

theorem OwnRow.rdStatus : OwnRow.Statement .rdStatus := rfl

theorem OwnRow.rdAcc : OwnRow.Statement .rdAcc := rfl

theorem OwnRow.rdResult : OwnRow.Statement .rdResult := rfl

theorem OwnRow.rdRsv3 : OwnRow.Statement .rdRsv3 := rfl

end Sys2Proof.Laws
end

