-- ==== Sys2Proof/Laws/Run.lean ====
section
/-! SUPPORT. Runs one step at a time, and runs joined end to end. -/

namespace Sys2Proof.Machine

@[simp] theorem runFor_zero (s : State) : runFor 0 s = .next s := rfl

@[simp] theorem runEnded_zero (s : State) : runEnded 0 s = false := rfl

theorem runFor_succ_of_step {s t : State} (h : step s = .next t) (k : Nat) : runFor (k + 1) s = runFor k t := by
  simp only [runFor, h]

theorem runEnded_succ_of_step {s t : State} (h : step s = .next t) (k : Nat) :
    runEnded (k + 1) s = ((lastIssued s && returnedIdle s t) || runEnded k t) := by
  simp only [runEnded, h]

/-- A run of k + 1 steps is one step and a run of k. -/
theorem runFor_succ_eq_next {s u : State} {k : Nat} :
    runFor (k + 1) s = .next u ↔ ∃ t, step s = .next t ∧ runFor k t = .next u := by
  simp only [runFor]
  split <;> simp_all

theorem runFor_add {s t : State} {j : Nat} (h : runFor j s = .next t) (k : Nat) : runFor (j + k) s = runFor k t := by
  induction j generalizing s with
  | zero => cases h; rw [Nat.zero_add]
  | succ j ih =>
    obtain ⟨m, hm, h⟩ := runFor_succ_eq_next.mp h
    rw [Nat.add_right_comm, runFor_succ_of_step hm, ih h]

/-- A run has ended within j + k steps iff its first j end it or what follows them does. -/
theorem runEnded_add {s t : State} {j : Nat} (h : runFor j s = .next t) (k : Nat) :
    runEnded (j + k) s = (runEnded j s || runEnded k t) := by
  induction j generalizing s with
  | zero => cases h; simp
  | succ j ih =>
    obtain ⟨m, hm, h⟩ := runFor_succ_eq_next.mp h
    rw [Nat.add_right_comm, runEnded_succ_of_step hm, runEnded_succ_of_step hm, ih h, Bool.or_assoc]

end Sys2Proof.Machine
end

