-- ==== Sys2Proof/Laws/Turn.lean ====
section
/-! SUPPORT. What one step of the machine can do, said once: every invariant follows from these inversions. -/

namespace Sys2Proof.Machine

/-- `takeTurn` uses up a choice and does nothing else. -/
theorem takeTurn_eq (s : State) : takeTurn s = s ∨ takeTurn s = dropTurn s := by
  unfold takeTurn
  split
  · exact .inr rfl
  · exact .inl rfl

@[simp] theorem engineNext_takeTurn (s : State) : engineNext (takeTurn s) = engineNext s := by
  rcases takeTurn_eq s with h | h
  · rw [h]
  · rw [h]; rfl

@[simp] theorem host_takeTurn (s : State) : (takeTurn s).host = s.host := by
  rcases takeTurn_eq s with h | h
  · rw [h]
  · rw [h]; rfl

/-- A turn is used up exactly where the HOST could have moved beside an ENGINE that can. -/
theorem takeTurn_of_engineEnabled {s : State} (h : engineEnabled s = true) :
    takeTurn s = { s with turns := if hostEnabled s then s.turns.tail else s.turns } := by
  unfold takeTurn contended dropTurn
  cases hostEnabled s <;> simp [h]

/-- The ENGINE's step: its one enabled micro-step, on the state whose turn is used up. -/
theorem step_of_engine {s : State} {e : EngineStep} (hn : nextAgent s = some .engine) (he : engineNext s = some e) :
    step s = .next (engineEffect { s with turns := if hostEnabled s then s.turns.tail else s.turns } e) := by
  rw [← takeTurn_of_engineEnabled (by simp [engineEnabled, he])]
  simp [step, advance, hn, engineTurn, he]

/-- A step that gives a next state is a HOST step, an ENGINE micro-step, or the rest of an idle block. -/
theorem step_cases {s t : State} (h : step s = .next t) :
    (nextAgent s = some .host ∧ hostTurn (takeTurn s) = .next t) ∨
    (nextAgent s = some .engine ∧ ∃ e, engineNext s = some e ∧ t = engineEffect (takeTurn s) e) ∨
    (nextAgent s = none ∧ busy s = false ∧ t = s) := by
  unfold step advance at h
  split at h
  · exact .inl ⟨‹_›, h⟩
  · refine .inr (.inl ⟨‹_›, ?_⟩)
    unfold engineTurn at h
    rw [engineNext_takeTurn] at h
    split at h
    · injection h with h
      exact ⟨_, ‹_›, h.symm⟩
    · cases h
  · split at h
    · cases h
    · injection h with h
      exact .inr (.inr ⟨‹_›, Bool.eq_false_iff.mpr ‹_›, h.symm⟩)

/-- The agent that moves has an enabled step. -/
theorem hostEnabled_of_nextAgent {s : State} (h : nextAgent s = some .host) : hostEnabled s = true := by
  unfold nextAgent contended at h
  split at h
  · simp_all
  · split at h
    · assumption
    · split at h <;> cases h

theorem hostTurn_request {s : State} {r : Request} {hs : List HostStep} (h : s.host = .request r :: hs) :
    hostTurn s = runRequest r (dequeue s) := by simp only [hostTurn, h]

theorem hostTurn_write {s : State} {a : Word} {b : Byte} {hs : List HostStep} (h : s.host = .write a b :: hs) :
    hostTurn s = .next (writeMem (dequeue s) a b) := by simp only [hostTurn, h]

theorem hostTurn_reset {s : State} {hs : List HostStep} (h : s.host = .reset :: hs) :
    hostTurn s = .next (resetBlock (dequeue s)) := by simp only [hostTurn, h]

theorem hostTurn_wait {s : State} {hs : List HostStep} (h : s.host = .wait :: hs) :
    hostTurn s = if (statusWord s).getLsbD 0 then exec .rdStatus s else exec .rdStatus (dequeue s) := by
  simp only [hostTurn, h]

/-- A request that gives a next state ran the decoded instruction, or was illegal. -/
theorem runRequest_next {r : Request} {s t : State} (h : runRequest r s = .next t) :
    (∃ i, decodeRequest r = .ok i ∧ exec i s = .next t) ∨
    (∃ e, decodeRequest r = .error e ∧ takeIllegal s = .next t) := by
  unfold runRequest at h
  split at h
  · exact .inl ⟨_, ‹_›, h⟩
  · exact .inr ⟨_, ‹_›, h⟩

end Sys2Proof.Machine
end

