-- ==== Sys2Proof/Tests/Slice0.lean ====
section
/-! SUPPORT. Tests of one step or one word each, their results from the spec's tables (30_encoding.md R64, 95_test_vectors.md), and a
witness for the hypotheses of every statement that has some. -/

namespace Sys2Proof.Tests

open Sys2Proof Sys2Proof.Machine

/-! ### The assembler's checks refuse (30_encoding.md R72) -/

theorem test_wf_load : (Asm.load (2 ^ 32)).wf = false ∧ (Asm.load (2 ^ 32 - 1)).wf = true := by decide

theorem test_wf_restore : (Asm.restore (2 ^ 32)).wf = false := by decide

theorem test_wf_updb : (Asm.updb 256).wf = false ∧ (Asm.updb 255).wf = true := by decide

theorem test_wf_upd_addr : (Asm.upd (2 ^ 32) 0).wf = false := by decide

theorem test_wf_upd_len : (Asm.upd 0 (2 ^ 32)).wf = false := by decide

theorem test_wf_bufcrc_addr : (Asm.bufcrc (2 ^ 32) 0).wf = false := by decide

theorem test_wf_bufcrc_len : (Asm.bufcrc 0 (2 ^ 32)).wf = false := by decide

theorem test_wf_strcrc : (Asm.strcrc (2 ^ 32)).wf = false := by decide

theorem test_wf_word_cmd : (Asm.word (2 ^ 32) 0 0).wf = false := by decide

theorem test_wf_word_arg0 : (Asm.word 0 (2 ^ 32) 0).wf = false := by decide

theorem test_wf_word_arg1 : (Asm.word 0 0 (2 ^ 32)).wf = false := by decide

theorem test_wf_updbs_range : (Asm.updbs [0, 256]).wf = false := by decide

theorem test_wf_updbs_empty : (Asm.updbs []).wf = false := by decide

/-- R72: `upd <addr>, <len>` with a comment. -/
theorem test_asm_line : assembleLine "upd 0x1000, 6 ; six bytes".toList =
    some [.request (.command ⟨0x04000000#32, 0x1000#32, 6#32⟩)] := by decide

/-- R73: the expansions of `updbs`, `seed` and `save`. -/
theorem test_asm_pseudo : assembleAll [.updbs [0xEB, 0xE5], .seed, .save] =
    some [.request (.command ⟨0x030000EB#32, 0#32, 0#32⟩), .request (.command ⟨0x030000E5#32, 0#32, 0#32⟩),
      .request (.command ⟨0x01000000#32, 0#32, 0#32⟩), .request (.read 1#2)] := by decide

/-! ### The end of a run (70_reset_and_hazards.md R171) -/

/-- No status read, no end; the status read before the last transaction is none. -/
theorem test_run_needs_status_read :
    runEnded 4 { State.reset with host := [issue .fin] } = false ∧
    runEnded 4 { State.reset with host := [issue .rdStatus, issue .fin, issue .rdAcc] } = false := by decide

/-- The run is over at the status read that returns BUSY = 0, the reads after it still to come. -/
theorem test_run_ends_at_status_read :
    runEnded 1 { State.reset with host := [issue .fin, issue .rdStatus, issue .rdAcc] } = false ∧
    runEnded 2 { State.reset with host := [issue .fin, issue .rdStatus, issue .rdAcc] } = true := by decide

/-! ### Decoding: words written out from R64 and R71 -/

theorem test_decode_nop : decodeTableWord 32 0b00000000000000000000000000000000 = some .nop := by decide

theorem test_decode_init : decodeTableWord 32 0b00000001000000000000000000000000 = some .init := by decide

/-- V-X8: ARG1 is ignored. -/
theorem test_decode_load : decodeTableWord 96 0xFFFFFFFF9A6C7F6702000000 = some (.load 0x9A6C7F67#32) := by decide

theorem test_decode_updb : decodeTableWord 32 0b00000011000000000000000000110001 = some (.updb 0x31#8) := by decide

theorem test_decode_upd : decodeTableWord 96 0x000000060000100004000000 = some (.upd 0x1000#32 6#32) := by decide

theorem test_decode_fin : decodeTableWord 32 0b00000101000000000000000000000000 = some .fin := by decide

theorem test_decode_bufcrc : decodeTableWord 96 0x0000001A0000300006000000 = some (.bufcrc 0x3000#32 26#32) := by decide

theorem test_decode_strcrc : decodeTableWord 96 0x000000000000200007000000 = some (.strcrc 0x2000#32) := by decide

theorem test_decode_rd_status : decodeTableWord 8 0b00 = some .rdStatus := by decide

theorem test_decode_rd_acc : decodeTableWord 8 0b01 = some .rdAcc := by decide

theorem test_decode_rd_result : decodeTableWord 8 0b10 = some .rdResult := by decide

theorem test_decode_rd_rsv3 : decodeTableWord 8 0b11 = some .rdRsv3 := by decide

/-- V-X1 to V-X6. -/
theorem test_decode_illegal : [0x08000000, 0xFF000000, 0x00000100, 0x03000100, 0x01000001, 0x05000080].map (decodeTableWord 32) =
    [none, none, none, none, none, none] := by decide

/-- V-X7, its nearest legal word. -/
theorem test_decode_legal_updb_ff : decodeTableWord 32 0x030000FF = some (.updb 0xFF#8) := by decide

theorem test_encode_updb : encode (.updb 0x31#8) = .command ⟨0x03000031#32, 0#32, 0#32⟩ := by decide

/-! ### Small states and readers -/

/-- The next state of an outcome. -/
def next? (o : Host.Outcome State Fault Refusal) : Option State :=
  match o with
  | .next t => some t
  | .fault _ => none
  | .refused _ => none

/-- What a reader sees of the next state. -/
def sees {α : Type} (o : Host.Outcome State Fault Refusal) (f : State → α) : Option α := (next? o).map f

/-- A reset block with a HOST program. -/
def hosting (hs : List HostStep) : State := { State.reset with host := hs }

/-- BM holds 5A at the top address (V-C5). -/
def topMem : Memory := [(0xFFFFFFFF, 0x5A#8)]

/-- A busy buffer command at a fetch of the top byte. -/
def atTop : State := { State.reset with seq := .buf, ptr := 0xFFFFFFFF#32, rem := 1#32, finq := true, mem := topMem }

/-- The same state after its byte and its 8 bit-steps: WRAP is set, and the end is due. -/
def atEnd : State := { atTop with acc := 0xA643A898#32, ptr := 0#32, rem := 0#32, wrap := true }

/-- A string command at a non-zero byte, and at a terminator. -/
def inString : State := { State.reset with seq := .str, ptr := 0xFFFFFFFF#32, finq := true, mem := topMem }

def atTerminator : State := { State.reset with seq := .str, ptr := 0x40#32, finq := true }

/-- A shift is due. -/
def shifting : State := { State.reset with acc := 0xFFFFFFCE#32, bitcnt := 8 }

/-- Stuck: past the top of the address space (V-M2), and at an unreadable address (V-M1). -/
def stuckAtWrap : State := { State.reset with seq := .buf, rem := 1#32, wrap := true }

def stuckUnreadable : State := { State.reset with seq := .str, ptr := 0x5000#32, readable := [⟨0#32, 0x4FFF#32⟩] }

/-! ### The pure functions -/

/-- V-T2, V-T4, V-T8, V-T9. -/
theorem test_bitstep : [0x00000001#32, 0x00000003#32, 0x7FFFFFFF#32, 0xFFFFFFFE#32].map bitStep =
    [0xEDB88320#32, 0xEDB88321#32, 0xD2477CDF#32, 0x7FFFFFFF#32] := by decide

/-- V-Y7, V-Y8, V-Y4. -/
theorem test_bytestep : byteStep 0xFFFFFFFF#32 0x31#8 = 0x7C231048#32 ∧ byteStep 0xFFFFFFFF#32 0x00#8 = 0x2DFD1072#32 ∧
    byteStep 0x00000000#32 0x80#8 = 0xEDB88320#32 := by decide

/-- S5, first chunk: the bytes in order, first byte first. -/
theorem test_update : update [0xEB#8, 0xE5#8, 0x51#8] 0xFFFFFFFF#32 = 0x9A6C7F67#32 := by decide +kernel

/-! ### The instructions -/

theorem test_nop : sees (exec .nop shifting) State.bitcnt = some 8 := by decide

/-- V-L2. -/
theorem test_init : sees (exec .init { State.reset with acc := 0x12345678#32, result := 7#32 }) (fun t => (t.acc, t.result)) =
    some (0xFFFFFFFF#32, 7#32) := by decide

/-- V-L3. -/
theorem test_load : sees (exec (.load 0xDEADBEEF#32) State.reset) State.acc = some 0xDEADBEEF#32 := by decide

/-- V-Y7, accept step. -/
theorem test_updb : sees (exec (.updb 0x31#8) State.reset) (fun t => (t.acc, t.bitcnt, statusWord t)) =
    some (0xFFFFFFCE#32, 8, 0x00000001#32) := by decide

/-- R111: FINQ and WRAP cleared, ACC kept. -/
theorem test_upd : sees (exec (.upd 0x1000#32 6#32) { State.reset with acc := 5#32, finq := true, wrap := true })
    (fun t => (t.acc, t.seq, t.ptr, t.rem, t.finq, t.wrap)) = some (5#32, .buf, 0x1000#32, 6#32, false, false) := by decide

/-- V-F3. -/
theorem test_fin : sees (exec .fin { State.reset with acc := 0x12345678#32 }) (fun t => (t.result, t.acc)) =
    some (0xEDCBA987#32, 0x12345678#32) := by decide

/-- R125. -/
theorem test_bufcrc : sees (exec (.bufcrc 0x3000#32 26#32) { State.reset with acc := 5#32 })
    (fun t => (t.acc, t.seq, t.ptr, t.rem, t.finq)) = some (0xFFFFFFFF#32, .buf, 0x3000#32, 26#32, true) := by decide

/-- R126: REM is not written. -/
theorem test_strcrc : sees (exec (.strcrc 0x2000#32) { State.reset with acc := 5#32, rem := 9#32 })
    (fun t => (t.acc, t.seq, t.ptr, t.rem, t.finq)) = some (0xFFFFFFFF#32, .str, 0x2000#32, 9#32, true) := by decide

/-- P4: ILLEGAL alone, and P5: BUSY alone. -/
theorem test_rd_status : sees (exec .rdStatus { State.reset with illegal := true }) State.reads = some [⟨0#2, 0x00000002#32⟩] ∧
    sees (exec .rdStatus stuckAtWrap) State.reads = some [⟨0#2, 0x00000001#32⟩] := by decide

/-- R104, with BUSY = 1. -/
theorem test_rd_acc : sees (exec .rdAcc shifting) State.reads = some [⟨1#2, 0xFFFFFFCE#32⟩] := by decide

theorem test_rd_result : sees (exec .rdResult { State.reset with result := 0xC57A3392#32 }) State.reads =
    some [⟨2#2, 0xC57A3392#32⟩] := by decide

theorem test_rd_rsv3 : sees (exec .rdRsv3 { State.reset with result := 7#32 }) State.reads = some [⟨3#2, 0#32⟩] := by decide

/-! ### Steps of the two agents -/

/-- V-Y7, first E-SHIFT. -/
theorem test_shift : sees (step shifting) (fun t => (t.acc, t.bitcnt)) = some (0x7FFFFFE7#32, 7) := by decide

/-- V-C5: the fetch of the top byte wraps PTR and sets WRAP. -/
theorem test_fetch_buf : sees (step { atTop with acc := 0xFFFFFFFF#32 }) (fun t => (t.acc, t.bitcnt, t.ptr, t.rem, t.wrap)) =
    some (0xFFFFFFA5#32, 8, 0#32, 0#32, true) := by decide

/-- V-C5: the completion after the wrap. -/
theorem test_end_buf : sees (step atEnd) (fun t => (t.result, t.ptr, t.wrap, busy t)) =
    some (0x59BC5767#32, 0#32, false, false) := by decide

/-- V-M3, first step. -/
theorem test_fetch_str : sees (step inString) (fun t => (t.bitcnt, t.wrap, t.rem)) = some (8, true, 0#32) := by decide

/-- V-C2: the terminator. -/
theorem test_end_str : sees (step atTerminator) (fun t => (t.result, t.acc, t.ptr, t.fetches)) =
    some (0#32, 0xFFFFFFFF#32, 0x40#32, [0x40#32]) := by decide

/-- V-M2, V-M1. -/
theorem test_stuck : stuck stuckAtWrap = true ∧ stuck stuckUnreadable = true ∧ next? (step stuckAtWrap) = none := by decide

/-- P4, first line. -/
theorem test_illegal : sees (step (hosting [.request (.command ⟨0x08000000#32, 0#32, 0#32⟩)])) statusWord = some 0x00000002#32 := by decide

/-- V-L7. -/
theorem test_reset : sees (step { stuckAtWrap with host := [.reset], acc := 1#32 }) (fun t => (statusWord t, t.acc)) =
    some (0#32, 0xFFFFFFFF#32) := by decide

/-- R20, R53: the HOST's write is seen by a read, and writing the unlisted value removes the entry. -/
theorem test_write : sees (step (hosting [.write 0x40#32 0x41#8])) State.mem = some [(0x40, 0x41#8)] ∧
    sees (step { hosting [.write 0x40#32 0#8] with mem := [(0x40, 0x41#8)] }) State.mem = some [] := by decide

/-- A table row's word is the first instruction after reset. -/
theorem test_fetch_word : sees (step (State.reset.withFetchWord 32 0x03000031)) State.acc = some 0xFFFFFFCE#32 ∧
    sees (step (State.reset.withFetchWord 8 1)) State.reads = some [⟨1#2, 0xFFFFFFFF#32⟩] := by decide

/-- R29. -/
theorem test_seq_code : [SeqMode.none, .buf, .str].map seqCode = [0#2, 1#2, 2#2] := by decide

/-- BM's canonical form refuses each of its violations. -/
theorem test_memory_wf : Memory.wf [(1, 5#8), (1, 6#8)] = false ∧ Memory.wf [(1, 0#8)] = false ∧ Memory.wf [(2 ^ 32, 5#8)] = false ∧
    Memory.wf [(1, 5#8), (2 ^ 32 - 1, 6#8)] = true := by decide

/-! ### Witnesses: the hypotheses of each statement are met -/

theorem witness_ResetAbortsAndAloneFreesStuck :
    ∃ t, stuck { stuckAtWrap with host := [.request (.read 1#2)] } = true ∧
      step { stuckAtWrap with host := [.request (.read 1#2)] } = .next t := ⟨_, by decide, rfl⟩

theorem witness_StepKeepsInvariant : Inv atEnd ∧ ∃ t, step atEnd = .next t := ⟨by decide, _, rfl⟩

theorem witness_EncodeRestoresCommandWord :
    decode ⟨0x02000000#32, 7#32, 9#32⟩ = .ok (.load 7#32) ∧ decode ⟨0x04000000#32, 7#32, 9#32⟩ = .ok (.upd 7#32 9#32) ∧
    decode ⟨0x06000000#32, 7#32, 9#32⟩ = .ok (.bufcrc 7#32 9#32) ∧ decode ⟨0x07000000#32, 7#32, 9#32⟩ = .ok (.strcrc 7#32) :=
  ⟨rfl, rfl, rfl, rfl⟩

/-- One word for each clause: RSV least and greatest, UPDB, a non-zero IMM8, OPC 7 and 8. -/
theorem witness_DecodeFollowsFields :
    (0x00000100#32 : Word).toNat / 2 ^ 8 % 2 ^ 16 = 1 ∧ (0x00FFFF00#32 : Word).toNat / 2 ^ 8 % 2 ^ 16 = 0xFFFF ∧
    (0x030000FF#32 : Word).toNat / 2 ^ 24 = 3 ∧ (0x02000001#32 : Word).toNat % 2 ^ 8 = 1 ∧
    (0x07000000#32 : Word).toNat / 2 ^ 24 = 7 ∧ (0x08000000#32 : Word).toNat / 2 ^ 24 = 8 := by decide

theorem witness_IgnoredOperandsHaveNoEffect :
    (0x05000000#32 : Word).toNat / 2 ^ 24 ∉ [0x02, 0x04, 0x06, 0x07] ∧ (0x07000000#32 : Word).toNat / 2 ^ 24 ∉ [0x04, 0x06] := by decide

theorem witness_StepRunsDecodedRequest :
    (hosting [.request (.read 2#2)]).host = [.request (.read 2#2)] ∧ decodeRequest (.read 2#2) = .ok .rdResult ∧
    nextAgent (hosting [.request (.read 2#2)]) = some .host := ⟨rfl, rfl, by decide⟩

theorem witness_NopChangesNothing : busy State.reset = false ∧ (0x00000001#32 : Word) ≠ 0#32 ∧ (0x00000001#32 : Word).toNat / 2 ^ 24 = 0 := by decide

theorem witness_InitSeedsAcc : busy { State.reset with acc := 0x12345678#32 } = false := by decide

theorem witness_LoadCopiesArg0 : busy { State.reset with acc := 0x12345678#32 } = false := by decide

theorem witness_UpdbFeedsOneByte : busy State.reset = false ∧ State.reset.host = [] := by decide

/-- A buffer that ends at 0xFFFFFFFF, and an empty one at an unreadable address (V-C5, V-M4). -/
theorem witness_UpdComputesUpdate :
    busy State.reset = false ∧ State.reset.host = [] ∧ validBuffer State.reset 0xFFFFFFFE#32 (2#32 : Word).toNat ∧
    validBuffer { State.reset with readable := [] } 0x9000#32 (0#32 : Word).toNat := by decide

theorem witness_UpdStartsSequencer : busy State.reset = false := by decide

theorem witness_FinWritesResult : busy State.reset = false ∧ State.reset.acc = 0xFFFFFFFF#32 ∧ exec .fin State.reset = .next State.reset :=
  ⟨rfl, rfl, rfl⟩

theorem witness_BufcrcStartsSequencer : busy State.reset = false := by decide

theorem witness_BufcrcComputesChecksum :
    busy { State.reset with mem := topMem } = false ∧ State.reset.host = [] ∧
    validBuffer { State.reset with mem := topMem } 0xFFFFFFFF#32 (1#32 : Word).toNat ∧
    validBuffer { State.reset with readable := [] } 0x0#32 (0#32 : Word).toNat := by decide

theorem witness_StrcrcStartsSequencer : busy State.reset = false := by decide

/-- The empty string at 0xFFFFFFFF (V-C6), and a string of one byte whose terminator lies there. -/
theorem witness_StrcrcComputesChecksum :
    busy State.reset = false ∧ State.reset.host = [] ∧ validString State.reset 0xFFFFFFFF#32 0 ∧
    validString { State.reset with mem := [(0xFFFFFFFE, 0x5A#8)] } 0xFFFFFFFE#32 1 := by decide

theorem witness_FrameNopAndReads : Instr.rdStatus ∈ [Instr.nop, .rdStatus, .rdAcc, .rdResult, .rdRsv3] ∧
    (∃ t, exec .rdStatus shifting = .next t) ∧ ∃ t, exec .nop State.reset = .next t := ⟨by decide, ⟨_, rfl⟩, _, rfl⟩

theorem witness_FrameInitLoad : (∃ t, exec .init State.reset = .next t) ∧ ∃ t, exec (.load 7#32) State.reset = .next t :=
  ⟨⟨_, rfl⟩, _, rfl⟩

theorem witness_FrameUpdb : ∃ t, exec (.updb 0xFF#8) State.reset = .next t ∧ t ≠ State.reset := ⟨_, rfl, by decide⟩

theorem witness_FrameFin : ∃ t, exec .fin { State.reset with acc := 7#32 } = .next t ∧ t.result = 0xFFFFFFF8#32 := ⟨_, rfl, by decide⟩

theorem witness_FrameSequencerCommands : (∃ t, exec (.upd 7#32 9#32) State.reset = .next t) ∧
    (∃ t, exec (.bufcrc 7#32 9#32) State.reset = .next t) ∧ ∃ t, exec (.strcrc 7#32) State.reset = .next t := ⟨⟨_, rfl⟩, ⟨_, rfl⟩, _, rfl⟩

/-- Held while a shift is due; accepted at once where the block is idle. -/
theorem witness_HeldUntilIdleThenAccepted :
    busy { shifting with host := [issue .init] } = true ∧ busy (hosting [issue .init]) = false ∧
    isCommand .init = true ∧ ∃ t, step { shifting with host := [issue .init] } = .next t := ⟨by decide, by decide, rfl, _, rfl⟩

/-- One word for each of the three conditions: OPC 8, RSV 1 on an UPDB, IMM8 1 on an INIT. -/
theorem witness_IllegalCommandSetsFlagOnly :
    busy (hosting [.request (.command ⟨0x08000000#32, 0#32, 0#32⟩)]) = false ∧ (0x08000000#32 : Word).toNat / 2 ^ 24 ≥ 0x08 ∧
    (0x03000100#32 : Word).toNat / 2 ^ 8 % 2 ^ 16 ≠ 0 ∧
    ((0x01000001#32 : Word).toNat / 2 ^ 24 ≠ 0x03 ∧ (0x01000001#32 : Word).toNat % 2 ^ 8 ≠ 0) := by decide

theorem witness_IllegalIsSticky :
    busy (hosting [.request (.command ⟨0x08000000#32, 0#32, 0#32⟩)]) = false ∧
    decode ⟨0x08000000#32, 0#32, 0#32⟩ = .error .opcodeReserved ∧
    (∃ t, step (hosting [.request (.command ⟨0x08000000#32, 0#32, 0#32⟩)]) = .next t ∧ t.illegal = true) ∧
    (∃ t, step { hosting [.reset] with illegal := true } = .next t ∧ t.illegal = false) :=
  ⟨by decide, rfl, ⟨_, rfl, by decide⟩, _, rfl, by decide⟩

/-- Each clause has a state: a shift, a fetch, an end, a string byte, a terminator, an idle block. -/
theorem witness_EngineStepsAreExclusive :
    shifting.bitcnt ≠ 0 ∧ (atTop.bitcnt = 0 ∧ atTop.seq = .buf ∧ atTop.rem ≠ 0#32) ∧ (atEnd.seq = .buf ∧ atEnd.rem = 0#32) ∧
    (inString.seq = .str ∧ readMem inString inString.ptr ≠ 0#8) ∧ (atTerminator.seq = .str ∧ readMem atTerminator atTerminator.ptr = 0#8) ∧
    (State.reset.bitcnt = 0 ∧ State.reset.seq = .none) := by decide

/-- The ENGINE moves alone, and by its turn where the HOST could have moved. -/
theorem witness_ShiftStep : nextAgent shifting = some .engine ∧
    nextAgent { shifting with host := [.wait], turns := [.engine, .host] } = some .engine ∧
    hostEnabled { shifting with host := [.wait], turns := [.engine, .host] } = true ∧ shifting.bitcnt ≠ 0 ∧ shifting.host = [] ∧ shifting.bitcnt = 8 ∧
    shifting.acc = 0xFFFFFFFF#32 ^^^ (0x31#8 : Byte).setWidth 32 := by decide

theorem witness_FetchBufStep : nextAgent atTop = some .engine ∧ atTop.bitcnt = 0 ∧ atTop.seq = .buf ∧ atTop.rem ≠ 0#32 ∧
    atTop.wrap = false ∧ memReadable atTop atTop.ptr = true := by decide

theorem witness_EndBufStep : nextAgent atEnd = some .engine ∧ atEnd.bitcnt = 0 ∧ atEnd.seq = .buf ∧ atEnd.rem = 0#32 := by decide

theorem witness_FetchStrStep : nextAgent inString = some .engine ∧ inString.bitcnt = 0 ∧ inString.seq = .str ∧ inString.wrap = false ∧
    memReadable inString inString.ptr = true ∧ readMem inString inString.ptr ≠ 0#8 := by decide

theorem witness_EndStrStep : nextAgent atTerminator = some .engine ∧ atTerminator.bitcnt = 0 ∧ atTerminator.seq = .str ∧
    atTerminator.wrap = false ∧ memReadable atTerminator atTerminator.ptr = true ∧ readMem atTerminator atTerminator.ptr = 0#8 := by decide

/-- Both reasons of R97, and a stuck state in which the HOST still moves. -/
theorem witness_StuckStatesHang :
    (stuckAtWrap.bitcnt = 0 ∧ stuckAtWrap.seq = .buf ∧ stuckAtWrap.rem ≠ 0#32 ∧ stuckAtWrap.wrap = true ∧ stuckAtWrap.host = []) ∧
    (stuckUnreadable.bitcnt = 0 ∧ stuckUnreadable.seq = .str ∧ memReadable stuckUnreadable stuckUnreadable.ptr = false) ∧
    (busy stuckAtWrap = true ∧ [EngineStep.shift, .fetchBuf, .endBuf, .fetchStr, .endStr].all (fun e => !enabled stuckAtWrap e) = true) ∧
    ∃ t, step { stuckAtWrap with host := [.write 0#32 1#8] } = .next t := ⟨by decide, by decide, by decide, _, rfl⟩

/-- The second byte lies past the top (V-M2); the first is unreadable. -/
theorem witness_BadBufferHangs :
    busy State.reset = false ∧ State.reset.host = [] ∧ 1 < (2#32 : Word).toNat ∧ badAfter State.reset 0xFFFFFFFF#32 1 ∧
    badAfter { State.reset with readable := [⟨0#32, 0x4FFF#32⟩] } 0x5000#32 0 := by decide

/-- V-M3, and an unreadable first byte. -/
theorem witness_UnterminatedStringHangs :
    busy { State.reset with mem := topMem } = false ∧ State.reset.host = [] ∧ badAfter { State.reset with mem := topMem } 0xFFFFFFFF#32 1 ∧
    (∀ i < 1, readMem { State.reset with mem := topMem } (addrAt 0xFFFFFFFF#32 i) ≠ 0#8) ∧
    badAfter { State.reset with readable := [] } 0#32 0 := by decide

theorem witness_BitStepShiftsAndXors : (0x00000001#32 : Word).getLsbD 0 = true ∧ (0x00000002#32 : Word).getLsbD 0 = false := by decide

theorem witness_BufcrcEqualsInitUpdFin : busy { State.reset with mem := topMem } = false ∧
    validBuffer { State.reset with mem := topMem } 0xFFFFFFFF#32 (1#32 : Word).toNat := by decide

theorem witness_StrcrcEqualsBufcrc : busy State.reset = false ∧
    validString { State.reset with mem := [(0xFFFFFFFE, 0x5A#8)] } 0xFFFFFFFE#32 1 := by decide

theorem witness_ChainDependsOnBytesOnly : busy { State.reset with mem := topMem } = false ∧
    ∀ c ∈ [Chunk.streamed [0x31#8], .buffer 0xFFFFFFFF#32 1#32], c.valid { State.reset with mem := topMem } :=
  ⟨by decide, List.forall_mem_cons.mpr ⟨trivial, List.forall_mem_cons.mpr
    ⟨(by decide : validBuffer { State.reset with mem := topMem } 0xFFFFFFFF#32 (1#32 : Word).toNat), by simp⟩⟩⟩

/-- FIN, a completion, a reset. -/
theorem witness_ResultHasThreeWriters :
    (∃ t, step { hosting [issue .fin] with acc := 7#32 } = .next t ∧ t.result ≠ 0#32) ∧
    (∃ t, step atEnd = .next t ∧ t.result ≠ atEnd.result) ∧
    (∃ t, step { hosting [.reset] with result := 7#32 } = .next t ∧ t.result ≠ 7#32) :=
  ⟨⟨_, rfl, by decide⟩, ⟨_, rfl, by decide⟩, _, rfl, by decide⟩

/-- A command, a shift, a fetch, a reset. -/
theorem witness_AccHasListedWriters :
    (∃ t, step (hosting [issue (.load 7#32)]) = .next t ∧ t.acc ≠ 0xFFFFFFFF#32) ∧ (∃ t, step shifting = .next t ∧ t.acc ≠ shifting.acc) ∧
    (∃ t, step atTop = .next t ∧ t.acc ≠ atTop.acc) ∧ (∃ t, step { hosting [.reset] with acc := 7#32 } = .next t ∧ t.acc ≠ 7#32) :=
  ⟨⟨_, rfl, by decide⟩, ⟨_, rfl, by decide⟩, ⟨_, rfl, by decide⟩, _, rfl, by decide⟩

/-- BUSY rises at an accept, falls at a completion and at a reset. -/
theorem witness_BusyRisesAndFallsAsListed :
    (∃ t, step (hosting [issue (.strcrc 0#32)]) = .next t ∧ busy t = true) ∧ (∃ t, step atEnd = .next t ∧ busy atEnd = true ∧ busy t = false) ∧
    (∃ t, step { stuckAtWrap with host := [.reset] } = .next t ∧ busy t = false) :=
  ⟨⟨_, rfl, by decide⟩, ⟨_, rfl, by decide, by decide⟩, _, rfl, by decide⟩

theorem witness_BlockNeverWritesMemory : (∃ t, exec (.upd 0#32 1#32) State.reset = .next t) ∧
    Memory.wf (hosting [.write 0#32 1#8]).mem = true ∧ ∃ t, step (hosting [.write 0#32 1#8]) = .next t ∧ t.mem ≠ [] :=
  ⟨⟨_, rfl⟩, by decide, _, rfl, by decide⟩

theorem witness_ReadsOnlyAdmittedPtr : ∃ t, step atTop = .next t ∧ t.fetches = [0xFFFFFFFF#32] := ⟨_, rfl, by decide⟩

theorem witness_OnlyStuckStatesStop : stuck stuckAtWrap = true ∧ hostEnabled stuckAtWrap = false := by decide

theorem witness_EitherAgentMayMove : hostEnabled { shifting with host := [.wait] } = true ∧ engineEnabled { shifting with host := [.wait] } = true := by
  decide

/-- A buffer fetch; a data byte that the HOST's write turns into the terminator; a terminator that it turns into a data byte. -/
theorem witness_RaceTakesOldOrNewByte :
    (Memory.wf atTop.mem = true ∧ engineNext { atTop with host := [.write 0xFFFFFFFF#32 0x41#8] } = some .fetchBuf) ∧
    (Memory.wf inString.mem = true ∧ engineNext { inString with host := [.write 0xFFFFFFFF#32 0x00#8] } = some .fetchStr) ∧
    (Memory.wf atTerminator.mem = true ∧ engineNext { atTerminator with host := [.write 0x40#32 0x41#8] } = some .endStr) := by decide

theorem witness_ReadWhileBusyAdmitsEachPoint : busy State.reset = false ∧ 7 < 8 := by decide

/-- The loop goes on, and ends; a run ends, and goes on reading; a stuck block that polls. -/
theorem witness_WaitEndsWhenIdle :
    (nextAgent { shifting with host := [.wait], turns := [.host] } = some .host ∧ busy shifting = true) ∧
    (nextAgent (hosting [.wait]) = some .host ∧ busy (hosting [.wait]) = false ∧ lastIssued (hosting [.wait]) = true) ∧
    (∃ t u, HostStep.reset ∉ (hosting [issue .fin, .wait, issue .rdAcc]).host ∧
      runFor 2 (hosting [issue .fin, .wait, issue .rdAcc]) = .next t ∧ runEnded 2 (hosting [issue .fin, .wait, issue .rdAcc]) = true ∧
      runFor 1 t = .next u) ∧
    (stuck { atTop with wrap := true, host := [.wait] } = true ∧ HostStep.reset ∉ ({ atTop with wrap := true, host := [.wait] } : State).host) :=
  ⟨by decide, by decide, ⟨_, _, by decide, rfl, by decide, rfl⟩, by decide⟩

theorem witness_EngineIsNotStarved : engineEnabled { shifting with host := [.wait], turns := [.host, .host] } = true := by decide

theorem witness_RecordsDoNotInfluence : ∃ t, step { atTop with reads := [⟨1#2, 7#32⟩] } = .next t := ⟨_, rfl⟩

/-- `updbs` in range to its last value, and just past it. -/
theorem witness_AssemblerEncodesInRangeOnly : [0, 255] ≠ ([] : List Nat) ∧ (∀ b ∈ [0, 255], b ≤ 255) ∧
    [0, 256] ≠ ([] : List Nat) ∧ ¬ ∀ b ∈ [0, 256], b ≤ 255 := by decide

end Sys2Proof.Tests
end

