-- ==== Sys2Proof/Proofs/Interleaving.lean ====
section
/-! PROOF. Which agent moves where both can (00_scope.md R14). -/

namespace Sys2Proof.Machine

theorem step_of_nextAgent_host {s : State} (h : nextAgent s = some .host) : step s = hostTurn (takeTurn s) := by
  simp only [step, advance, h]

theorem step_of_nextAgent_engine {s : State} (h : nextAgent s = some .engine) : step s = engineTurn (takeTurn s) := by
  simp only [step, advance, h]

/-- The list of turns decides nothing about which agents can move. -/
@[simp] theorem contended_withTurns (s : State) (ts : List Agent) : contended { s with turns := ts } = contended s := rfl

theorem contended_of_enabled {s : State} (hh : hostEnabled s = true) (he : engineEnabled s = true) : contended s = true := by
  rw [contended, hh, he, Bool.and_true]

/-- Between two agents that can move, the next choice says which does. -/
theorem nextAgent_turns_cons {s : State} (h : contended s = true) (a : Agent) (ts : List Agent) :
    nextAgent { s with turns := a :: ts } = some a := by
  simp [nextAgent, h]

/-- Between two agents that can move, the choice made is used up. -/
theorem takeTurn_turns_cons {s : State} (h : contended s = true) (a : Agent) (ts : List Agent) :
    takeTurn { s with turns := a :: ts } = { s with turns := ts } := by
  simp [takeTurn, dropTurn, h]

/-- Settles O54: the first choice names the agent that moves, and is used up by its step. -/
theorem eitherAgentMayMove : Obligations.EitherAgentMayMove := by
  intro s ts hh he
  have hc : contended s = true := contended_of_enabled hh he
  constructor
  · rw [step_of_nextAgent_host (nextAgent_turns_cons hc .host ts), takeTurn_turns_cons hc]
  · rw [step_of_nextAgent_engine (nextAgent_turns_cons hc .engine ts), takeTurn_turns_cons hc]

end Sys2Proof.Machine
end

/-! PROOF. The state: what one step can do, the invariant, who writes a register, the frames of INIT, LOAD and UPDB, and the
two records. -/

namespace Sys2Proof.Machine

/-! ### What an instruction does, said once -/

/-- The effect of an instruction that takes place: at its accept step for a command (R61), at once for a read (R71). -/
def instrEffect : Instr → State → State
  | .nop, s => s
  | .init, s => setAcc s Config.initial
  | .load v, s => setAcc s v
  | .updb b, s => feedByte s b
  | .upd p n, s => setRem (startSequencer s .buf p false) n
  | .fin, s => finalizeResult s
  | .bufcrc p n, s => setRem (startSequencer (setAcc s Config.initial) .buf p true) n
  | .strcrc p, s => startSequencer (setAcc s Config.initial) .str p true
  | .rdStatus, s => returnRead s 0#2 (statusWord s)
  | .rdAcc, s => returnRead s 1#2 s.acc
  | .rdResult, s => returnRead s 2#2 s.result
  | .rdRsv3, s => returnRead s 3#2 0#32

/-- A command waits for an idle block, a read does not. -/
theorem exec_eq (i : Instr) (s : State) :
    exec i s = if isCommand i then accept s (instrEffect i) else .next (instrEffect i s) := by
  cases i <;> rfl

theorem exec_idle (i : Instr) {s : State} (h : busy s = false) : exec i s = .next (instrEffect i s) := by
  rw [exec_eq, accept_idle h, ite_self]

/-- A command leaves a busy block as it is, and has its effect on an idle one (R61). -/
theorem exec_command_cases {i : Instr} {s t : State} (hc : isCommand i = true) (h : exec i s = .next t) :
    t = s ∨ t = instrEffect i s := by
  rw [exec_eq, if_pos hc] at h
  exact (accept_next h).imp (·.2) (·.2)

/-- What the read port returns at a read address (R71, R103 to R106). -/
def portValue (s : State) (a : BitVec 2) : Word :=
  if a = 0#2 then statusWord s else if a = 1#2 then s.acc else if a = 2#2 then s.result else 0#32

theorem exec_decodeRead (a : BitVec 2) (s : State) : exec (decodeRead a) s = .next (returnRead s a (portValue s a)) := by
  obtain ⟨⟨n, hn⟩⟩ := a
  interval_cases n <;> rfl

theorem runRequest_read (a : BitVec 2) (s : State) :
    runRequest (.read a) s = .next (returnRead s a (portValue s a)) :=
  exec_decodeRead a s

/-! ### What a step does, said once -/

/-- What one step can make of a state: one constructor per kind of HOST step, one for the ENGINE's micro-steps, one for the rest
of an idle block. Which turns are left is not said. -/
inductive StepEffect (s : State) : State → Prop
  | command {c : Transaction} {i : Instr} {hs : List HostStep} {ts : List Agent} (hidle : busy s = false)
      (hhost : s.host = .request (.command c) :: hs) (hdec : decode c = .ok i) :
      StepEffect s (instrEffect i { s with host := hs, turns := ts })
  | illegal {c : Transaction} {e : IllegalReason} {hs : List HostStep} {ts : List Agent} (hidle : busy s = false)
      (hhost : s.host = .request (.command c) :: hs) (hdec : decode c = .error e) :
      StepEffect s (setIllegal { s with host := hs, turns := ts })
  | read {a : BitVec 2} {hs : List HostStep} {ts : List Agent} (hhost : s.host = .request (.read a) :: hs) :
      StepEffect s (returnRead { s with host := hs, turns := ts } a (portValue s a))
  | wait {hs hs' : List HostStep} {ts : List Agent} (hhost : s.host = .wait :: hs)
      (hnext : hs' = if (statusWord s).getLsbD 0 then s.host else hs) :
      StepEffect s (returnRead { s with host := hs', turns := ts } 0#2 (statusWord s))
  | write {a : Word} {b : Byte} {hs : List HostStep} {ts : List Agent} (hhost : s.host = .write a b :: hs) :
      StepEffect s (writeMem { s with host := hs, turns := ts } a b)
  | reset {hs : List HostStep} {ts : List Agent} (hhost : s.host = .reset :: hs) :
      StepEffect s (resetBlock { s with host := hs, turns := ts })
  | engine {e : EngineStep} {ts : List Agent} (hagent : nextAgent s = some .engine) (hnext : engineNext s = some e) :
      StepEffect s (engineEffect { s with turns := ts } e)
  | rest (hagent : nextAgent s = none) (hidle : busy s = false) : StepEffect s s

theorem takeTurn_eq_withTurns (s : State) : ∃ ts, takeTurn s = { s with turns := ts } := by
  rcases takeTurn_eq s with h | h
  · exact ⟨s.turns, h⟩
  · exact ⟨s.turns.tail, h⟩

theorem dequeue_of_host {s : State} {x : HostStep} {hs : List HostStep} (h : s.host = x :: hs) :
    dequeue s = { s with host := hs } := by
  rw [dequeue, h, List.tail_cons]

/-- A transaction at the head of the HOST's list is enabled on an idle block alone (R61). -/
theorem idle_of_hostEnabled_command {s : State} {c : Transaction} {hs : List HostStep} (hen : hostEnabled s = true)
    (h : s.host = .request (.command c) :: hs) : busy s = false := by
  simpa [hostEnabled, h] using hen

theorem runCommand_effect {s t : State} {c : Transaction} {hs : List HostStep} {ts : List Agent} (hidle : busy s = false)
    (hhost : s.host = .request (.command c) :: hs)
    (h : runRequest (.command c) { s with host := hs, turns := ts } = .next t) : StepEffect s t := by
  have hu : busy { s with host := hs, turns := ts } = false := hidle
  obtain ⟨i, hdec, h⟩ | ⟨e, hdec, h⟩ := runRequest_next h
  · rw [exec_idle i hu] at h
    cases h
    exact .command hidle hhost hdec
  · rw [takeIllegal, accept_idle hu] at h
    cases h
    exact .illegal hidle hhost hdec

theorem hostTurn_effect {s t : State} {ts : List Agent} (hen : hostEnabled s = true)
    (h : hostTurn { s with turns := ts } = .next t) : StepEffect s t := by
  cases hhost : s.host with
  | nil => simp [hostEnabled, hhost] at hen
  | cons x hs =>
    have hu : ({ s with turns := ts } : State).host = x :: hs := hhost
    cases x with
    | request r =>
      rw [hostTurn_request hu, dequeue_of_host hu] at h
      cases r with
      | command c => exact runCommand_effect (idle_of_hostEnabled_command hen hhost) hhost h
      | read a =>
        rw [runRequest_read] at h
        cases h
        exact .read hhost
    | wait =>
      rw [hostTurn_wait hu, dequeue_of_host hu] at h
      split at h
      · cases h
        exact .wait hhost (if_pos ‹_›).symm
      · cases h
        exact .wait hhost (if_neg ‹_›).symm
    | write a b =>
      rw [hostTurn_write hu, dequeue_of_host hu] at h
      cases h
      exact .write hhost
    | reset =>
      rw [hostTurn_reset hu, dequeue_of_host hu] at h
      cases h
      exact .reset hhost

/-- Every step that gives a next state has one of the listed effects. -/
theorem stepEffect_of_step {s t : State} (h : step s = .next t) : StepEffect s t := by
  obtain ⟨ts, hts⟩ := takeTurn_eq_withTurns s
  obtain ⟨hagent, h⟩ | ⟨hagent, e, hnext, rfl⟩ | ⟨hagent, hidle, rfl⟩ := step_cases h
  · exact hostTurn_effect (hostEnabled_of_nextAgent hagent) (hts ▸ h)
  · exact hts ▸ .engine hagent hnext
  · exact .rest hagent hidle

/-- An illegal command on an idle block is accepted at the next step, and sets ILLEGAL alone (R68, R141). -/
theorem step_illegal {s : State} {c : Transaction} {hs : List HostStep} {e : IllegalReason}
    (hhost : s.host = .request (.command c) :: hs) (hidle : busy s = false) (hdec : decode c = .error e) :
    step s = .next (setIllegal { s with host := hs }) := by
  have hen : hostEnabled s = true := by simp [hostEnabled, hhost, hidle]
  have hrest : engineEnabled s = false := by rw [engineEnabled, engineNext_idle hidle]; rfl
  have hagent : nextAgent s = some .host := by simp [nextAgent, contended, hen, hrest]
  have hturn : takeTurn s = s := by simp [takeTurn, contended, hrest]
  have hu : busy { s with host := hs } = false := hidle
  rw [step_of_nextAgent_host hagent, hturn, hostTurn_request hhost, dequeue_of_host hhost, runRequest, decodeRequest, hdec]
  exact accept_idle hu

/-! ### The invariant -/

/-- Settles O3: at reset the ENGINE is idle and BM is empty. -/
theorem resetMeetsInvariant : Obligations.ResetMeetsInvariant :=
  ⟨fun _ => ⟨rfl, rfl⟩, fun h => absurd h (by decide), reset_mem_wf⟩

/-- With WRAP = 0 and BM canonical, an idle sequencer's FINQ is all that is left of the invariant. -/
theorem inv_of_wrap_eq_false {s : State} (hf : s.seq = .none → s.finq = false) (hw : s.wrap = false)
    (hm : Memory.wf s.mem = true) : Inv s :=
  ⟨fun h => ⟨hf h, hw⟩, fun h => by simp [hw] at h, hm⟩

/-- The increment sets WRAP as it leaves 0 in PTR (R33, R96). -/
theorem inv_advancePtr {s : State} (hq : s.seq ≠ .none) (hw : s.wrap = false) (hm : Memory.wf s.mem = true) :
    Inv (advancePtr s) := by
  refine ⟨fun h => absurd h hq, fun h => ?_, hm⟩
  have htop : s.ptr = 0xFFFFFFFF#32 := by simpa [inc_eq, hw] using h
  simp [inc_eq, htop]

/-- `Complete()` clears FINQ and WRAP (R95). -/
theorem inv_complete {s : State} (hm : Memory.wf s.mem = true) : Inv (complete s) :=
  inv_of_wrap_eq_false (fun _ => rfl) rfl hm

/-- The commands that start the sequencer clear WRAP (R111, R125, R126); no other instruction writes what the invariant reads. -/
theorem instrEffect_keeps_inv {s : State} (i : Instr) (hi : Inv s) : Inv (instrEffect i s) := by
  have ⟨_, _, hm⟩ := hi
  cases i with
  | upd | bufcrc | strcrc => exact inv_of_wrap_eq_false (by simp [instrEffect]) rfl hm
  | nop | init | load | updb | fin | rdStatus | rdAcc | rdResult | rdRsv3 => exact hi

theorem wrap_of_fetchAdmitted {s : State} (h : fetchAdmitted s = true) : s.wrap = false := by
  rw [fetchAdmitted, Bool.and_eq_true, Bool.not_eq_true'] at h
  exact h.1

theorem engineEffect_keeps_inv {s : State} {e : EngineStep} (hnext : engineNext s = some e) (hi : Inv s) :
    Inv (engineEffect s e) := by
  have ⟨_, _, hm⟩ := hi
  obtain ⟨rfl, -⟩ | ⟨rfl, -⟩ | ⟨rfl, -, hq, -, hadm⟩ | ⟨rfl, -⟩ | ⟨rfl, -, hq, hadm, -⟩ := engineNext_cases hnext
  · exact hi
  · exact inv_complete hm
  · exact inv_advancePtr (by simp [hq]) (wrap_of_fetchAdmitted hadm) hm
  · exact inv_complete hm
  · exact inv_advancePtr (by simp [hq]) (wrap_of_fetchAdmitted hadm) hm

/-- Settles O4: the HOST's write keeps BM canonical, and each other effect keeps the three clauses by its own rule. -/
theorem stepKeepsInvariant : Obligations.StepKeepsInvariant := by
  intro s t hi hstep
  have ⟨hseq, hwrap, hm⟩ := hi
  cases stepEffect_of_step hstep with
  | command => exact instrEffect_keeps_inv _ hi
  | illegal | read | wait | rest => exact hi
  | write => exact ⟨hseq, hwrap, writeMem_wf hm⟩
  | reset => exact inv_of_wrap_eq_false (fun _ => rfl) rfl hm
  | engine _ hnext => exact engineEffect_keeps_inv hnext hi

/-! ### Who writes ILLEGAL, RESULT, ACC and BUSY -/

@[simp] theorem instrEffect_illegal (i : Instr) (s : State) : (instrEffect i s).illegal = s.illegal := by
  cases i <;> rfl

@[simp] theorem engineEffect_illegal (s : State) (e : EngineStep) : (engineEffect s e).illegal = s.illegal := by
  cases e <;> rfl

/-- Settles O32: of all effects, the illegal command's alone sets ILLEGAL, and the reset's alone clears it. -/
theorem illegalIsSticky : Obligations.IllegalIsSticky := by
  refine ⟨rfl, fun s c hs e hhost hidle hdec => ⟨_, step_illegal hhost hidle hdec, rfl⟩, fun s t hstep => ?_⟩
  cases stepEffect_of_step hstep with
  | illegal hidle hhost hdec => exact ⟨fun _ _ => ⟨hidle, _, _, _, hhost, hdec⟩, fun _ hclear => by simp at hclear⟩
  | reset hhost => exact ⟨fun _ hset => by simp at hset, fun _ _ => ⟨_, hhost⟩⟩
  | command | read | wait | write | engine | rest => simp +contextual

/-- FIN is the one instruction that writes RESULT at its accept step (R120). -/
theorem eq_fin_of_result_ne {i : Instr} {s : State} (h : (instrEffect i s).result ≠ s.result) : i = .fin := by
  cases i with
  | fin => rfl
  | nop | init | load | updb | upd | bufcrc | strcrc | rdStatus | rdAcc | rdResult | rdRsv3 => exact absurd rfl h

/-- `Complete()` writes RESULT where FINQ = 1 (R95). -/
theorem complete_result_of_ne {s : State} (h : (complete s).result ≠ s.result) :
    s.finq = true ∧ (complete s).result = ~~~s.acc := by
  rw [complete_result] at h ⊢
  split at h
  · exact ⟨‹_›, by simp [*, finalize]⟩
  · exact absurd rfl h

/-- A micro-step that writes RESULT completes a command (R92, R94). -/
theorem engineEffect_result_of_ne {s : State} {e : EngineStep} (h : (engineEffect s e).result ≠ s.result)
    (hnext : engineNext s = some e) :
    s.finq = true ∧ s.bitcnt = 0 ∧ s.seq ≠ .none ∧ (engineEffect s e).seq = .none ∧ (engineEffect s e).result = ~~~s.acc := by
  obtain ⟨rfl, -⟩ | ⟨rfl, hb, hq, -⟩ | ⟨rfl, -⟩ | ⟨rfl, hb, hq, -⟩ | ⟨rfl, -⟩ := engineNext_cases hnext
  · exact absurd rfl h
  · obtain ⟨hfin, hres⟩ := complete_result_of_ne h
    exact ⟨hfin, hb, by simp [hq], rfl, hres⟩
  · exact absurd rfl h
  · obtain ⟨hfin, hres⟩ := complete_result_of_ne (s := recordFetch s) h
    exact ⟨hfin, hb, by simp [hq], rfl, hres⟩
  · exact absurd rfl h

theorem busy_of_seq_ne {s : State} (h : s.seq ≠ .none) : busy s = true := by
  simp [busy, h]

/-- Settles O48: of all effects, those of FIN, of a completion with FINQ = 1 and of a reset alone write RESULT. -/
theorem resultHasThreeWriters : Obligations.ResultHasThreeWriters := by
  intro s t hstep hne
  cases stepEffect_of_step hstep with
  | command hidle hhost hdec =>
    obtain rfl := eq_fin_of_result_ne hne
    exact .inl ⟨hidle, ⟨_, _, hhost, hdec⟩, rfl⟩
  | engine _ hnext =>
    obtain ⟨hfin, hb, hq, hnone, hres⟩ := engineEffect_result_of_ne hne hnext
    exact .inr (.inl ⟨busy_of_seq_ne hq, hfin, hb, hq, hnone, hres⟩)
  | reset hhost => exact .inr (.inr ⟨⟨_, hhost⟩, rfl⟩)
  | illegal | read | wait | write | rest => exact absurd rfl hne

/-- The instructions that write ACC at their accept step (R101, R102, R110, R125, R126). -/
theorem instr_of_acc_ne {i : Instr} {s : State} (h : (instrEffect i s).acc ≠ s.acc) :
    i = .init ∨ (∃ v, i = .load v) ∨ (∃ b, i = .updb b) ∨ (∃ p n, i = .bufcrc p n) ∨ (∃ p, i = .strcrc p) := by
  cases i with
  | init | load | updb | bufcrc | strcrc => simp
  | nop | upd | fin | rdStatus | rdAcc | rdResult | rdRsv3 => exact absurd rfl h

/-- The micro-steps that write ACC, and what they write (R90, R91, R93). -/
theorem engineEffect_acc_of_ne {s : State} {e : EngineStep} (h : (engineEffect s e).acc ≠ s.acc) :
    (e = .shift ∧ (engineEffect s e).acc = bitStep s.acc) ∨
    ((e = .fetchBuf ∨ e = .fetchStr) ∧ (engineEffect s e).acc = xorByte s.acc (readMem s s.ptr)) := by
  cases e with
  | shift => exact .inl ⟨rfl, rfl⟩
  | fetchBuf => exact .inr ⟨.inl rfl, rfl⟩
  | fetchStr => exact .inr ⟨.inr rfl, rfl⟩
  | endBuf | endStr => exact absurd rfl h

/-- Settles O49: of all effects, those of the listed instructions and micro-steps and of a reset alone write ACC. -/
theorem accHasListedWriters : Obligations.AccHasListedWriters := by
  intro s t hstep hne
  cases stepEffect_of_step hstep with
  | command hidle hhost hdec => exact .inl ⟨hidle, _, _, _, hhost, hdec, instr_of_acc_ne hne⟩
  | engine _ hnext =>
    obtain ⟨rfl, hacc⟩ | ⟨he, hacc⟩ := engineEffect_acc_of_ne hne
    · exact .inr (.inl ⟨hnext, hacc⟩)
    · exact .inr (.inr (.inl ⟨by simpa [hnext] using he, hacc⟩))
  | reset hhost => exact .inr (.inr (.inr ⟨⟨_, hhost⟩, rfl⟩))
  | illegal | read | wait | write | rest => exact absurd rfl hne

/-- The instructions that leave an idle block busy at their accept step (R26). -/
theorem instr_of_busy {i : Instr} {s : State} (h : busy (instrEffect i s) = true) (hidle : busy s = false) :
    (∃ b, i = .updb b) ∨ (∃ p n, i = .upd p n) ∨ (∃ p n, i = .bufcrc p n) ∨ (∃ p, i = .strcrc p) := by
  cases i with
  | updb | upd | bufcrc | strcrc => simp
  | nop | init | load | fin | rdStatus | rdAcc | rdResult | rdRsv3 => exact absurd h (Bool.eq_false_iff.mp hidle)

/-- Settles O50: BITCNT and SEQ, which make BUSY, are written by these four commands, by micro-steps and by a reset alone. -/
theorem busyRisesAndFallsAsListed : Obligations.BusyRisesAndFallsAsListed := by
  intro s t hstep
  cases stepEffect_of_step hstep with
  | command hidle hhost hdec =>
    exact ⟨fun _ hrise => ⟨_, _, _, hhost, hdec, instr_of_busy hrise hidle⟩, fun hbusy => by simp [hidle] at hbusy⟩
  | engine hagent hnext =>
    exact ⟨fun hidle => by simp [engineNext_idle hidle] at hnext, fun _ _ => .inl ⟨_, hnext, hagent⟩⟩
  | reset hhost => exact ⟨fun _ hrise => by simp [busy] at hrise, fun _ _ => .inr ⟨_, hhost⟩⟩
  | illegal | read | wait | write | rest =>
    exact ⟨fun hidle hrise => absurd hrise (Bool.eq_false_iff.mp hidle),
      fun hbusy hfall => absurd hbusy (Bool.eq_false_iff.mp hfall)⟩

/-! ### Frames of INIT, LOAD and UPDB -/

/-- Settles O26: either command is a write of ACC, or finds the block busy. -/
theorem frameInitLoad : Obligations.FrameInitLoad := by
  intro s t i hi h
  obtain ⟨hc, v, hv⟩ : isCommand i = true ∧ ∃ v, instrEffect i s = setAcc s v := by
    obtain rfl | ⟨v, rfl⟩ := hi
    · exact ⟨rfl, Config.initial, rfl⟩
    · exact ⟨rfl, v, rfl⟩
  obtain rfl | rfl := exec_command_cases hc h
  · simp [sameMemory, sameSurroundings]
  · simp [hv, sameMemory, sameSurroundings, readMem]

/-- Settles O27: the command feeds a byte, or finds the block busy. -/
theorem frameUpdb : Obligations.FrameUpdb := by
  intro s t b h
  obtain rfl | rfl := exec_command_cases rfl h
  · simp [sameMemory, sameSurroundings]
  · simp [instrEffect, sameMemory, sameSurroundings, readMem]

/-! ### The records of the two read ports -/

/-- Two states that agree but for what the read port returned and which addresses were read. -/
def SameButRecords (s s' : State) : Prop := ∃ rs fs, s' = { s with reads := rs, fetches := fs }

/-- Where the first outcome is a next state, the second is one that agrees with it but for the records. -/
def AnswersAlike (o o' : Host.Outcome State Fault Refusal) : Prop :=
  ∀ t, o = .next t → ∃ t', o' = .next t' ∧ SameButRecords t t'

theorem answersAlike_next {t t' : State} (h : SameButRecords t t') : AnswersAlike (.next t) (.next t') := by
  rintro _ ⟨⟩
  exact ⟨t', rfl, h⟩

theorem instrEffect_records {s s' : State} (i : Instr) (h : SameButRecords s s') :
    SameButRecords (instrEffect i s) (instrEffect i s') := by
  obtain ⟨rs, fs, rfl⟩ := h
  cases i <;> exact ⟨_, _, rfl⟩

theorem engineEffect_records {s s' : State} (e : EngineStep) (h : SameButRecords s s') :
    SameButRecords (engineEffect s e) (engineEffect s' e) := by
  obtain ⟨rs, fs, rfl⟩ := h
  cases e <;> exact ⟨_, _, rfl⟩

theorem dequeue_records {s s' : State} (h : SameButRecords s s') : SameButRecords (dequeue s) (dequeue s') := by
  obtain ⟨rs, fs, rfl⟩ := h
  exact ⟨rs, fs, rfl⟩

theorem busy_records {s s' : State} (h : SameButRecords s s') : busy s' = busy s := by
  obtain ⟨rs, fs, rfl⟩ := h
  rfl

theorem accept_records {s s' : State} {f : State → State} (h : SameButRecords s s') (hf : SameButRecords (f s) (f s')) :
    AnswersAlike (accept s f) (accept s' f) := by
  rw [accept, accept, busy_records h]
  split
  · exact answersAlike_next h
  · exact answersAlike_next hf

theorem exec_records {s s' : State} (i : Instr) (h : SameButRecords s s') : AnswersAlike (exec i s) (exec i s') := by
  rw [exec_eq, exec_eq]
  split
  · exact accept_records h (instrEffect_records i h)
  · exact answersAlike_next (instrEffect_records i h)

theorem runRequest_records {s s' : State} (r : Request) (h : SameButRecords s s') :
    AnswersAlike (runRequest r s) (runRequest r s') := by
  unfold runRequest
  split
  · exact exec_records _ h
  · refine accept_records h ?_
    obtain ⟨rs, fs, rfl⟩ := h
    exact ⟨rs, fs, rfl⟩

theorem hostTurn_records {s s' : State} (h : SameButRecords s s') : AnswersAlike (hostTurn s) (hostTurn s') := by
  have ⟨rs, fs, hs'⟩ := h
  have hhost : s'.host = s.host := by rw [hs']
  have hstatus : statusWord s' = statusWord s := by rw [hs']; rfl
  unfold hostTurn
  rw [hhost, hstatus]
  split
  · exact answersAlike_next h
  · exact runRequest_records _ (dequeue_records h)
  · split
    · exact exec_records _ h
    · exact exec_records _ (dequeue_records h)
  · exact answersAlike_next (hs' ▸ ⟨rs, fs, rfl⟩)
  · exact answersAlike_next (hs' ▸ ⟨rs, fs, rfl⟩)

theorem engineTurn_records {s s' : State} (h : SameButRecords s s') : AnswersAlike (engineTurn s) (engineTurn s') := by
  have hnext : engineNext s' = engineNext s := by obtain ⟨rs, fs, rfl⟩ := h; rfl
  unfold engineTurn
  rw [hnext]
  split
  · exact answersAlike_next (engineEffect_records _ h)
  · nofun

theorem takeTurn_records {s s' : State} (h : SameButRecords s s') : SameButRecords (takeTurn s) (takeTurn s') := by
  obtain ⟨rs, fs, rfl⟩ := h
  have hcont : contended { s with reads := rs, fetches := fs } = contended s := rfl
  rw [takeTurn, takeTurn, hcont]
  split <;> exact ⟨rs, fs, rfl⟩

theorem step_records {s s' : State} (h : SameButRecords s s') : AnswersAlike (step s) (step s') := by
  have hagent : nextAgent s' = nextAgent s := by obtain ⟨rs, fs, rfl⟩ := h; rfl
  unfold step advance
  rw [hagent, busy_records h]
  split
  · exact hostTurn_records (takeTurn_records h)
  · exact engineTurn_records (takeTurn_records h)
  · split
    · nofun
    · exact answersAlike_next h

/-- Settles O59: neither agent's step looks at the records, which its effect on the rest of the state shows. -/
theorem recordsDoNotInfluence : Obligations.RecordsDoNotInfluence := by
  intro s t rs fs hstep
  obtain ⟨_, hstep', rs', fs', rfl⟩ := step_records ⟨rs, fs, rfl⟩ t hstep
  exact ⟨rs', fs', hstep'⟩

end Sys2Proof.Machine

/-! PROOF. The caller's memory (20_memory.md): who writes BM, which addresses a step reads, and the race of a HOST write with a
fetch. -/

namespace Sys2Proof.Machine

/-! ### Who writes BM -/

@[simp] theorem instrEffect_mem (i : Instr) (s : State) : (instrEffect i s).mem = s.mem := by
  cases i <;> rfl

@[simp] theorem engineEffect_mem (s : State) (e : EngineStep) : (engineEffect s e).mem = s.mem := by
  obtain ⟨hmem, -⟩ := engineEffect_frame s e
  exact hmem

/-- An instruction has its effect, or is a command that a busy block does not accept (R61, R71). -/
theorem exec_next {i : Instr} {s t : State} (h : exec i s = .next t) : t = s ∨ t = instrEffect i s := by
  by_cases hc : isCommand i
  · exact exec_command_cases hc h
  · rw [exec_eq, if_neg hc] at h
    cases h
    exact .inr rfl

theorem exec_mem {i : Instr} {s t : State} (h : exec i s = .next t) : t.mem = s.mem := by
  obtain rfl | rfl := exec_next h
  · rfl
  · exact instrEffect_mem i s

/-- Settles O51: of all effects, the HOST's write alone stores, and a read after it finds the byte at its address alone. -/
theorem blockNeverWritesMemory : Obligations.BlockNeverWritesMemory := by
  refine ⟨fun _ _ _ => exec_mem, engineEffect_mem, fun s t hm hstep => ?_⟩
  cases stepEffect_of_step hstep with
  | write hhost => exact .inr ⟨_, _, _, hhost, by simp [sameBlock], fun _ => readMem_writeMem hm⟩
  | command => exact .inl (instrEffect_mem _ _)
  | engine => exact .inl (engineEffect_mem _ _)
  | illegal | read | wait | reset | rest => exact .inl rfl

/-! ### Which addresses are read -/

@[simp] theorem instrEffect_readable (i : Instr) (s : State) : (instrEffect i s).readable = s.readable := by
  cases i <;> rfl

@[simp] theorem instrEffect_fetches (i : Instr) (s : State) : (instrEffect i s).fetches = s.fetches := by
  cases i <;> rfl

@[simp] theorem engineEffect_readable (s : State) (e : EngineStep) : (engineEffect s e).readable = s.readable := by
  obtain ⟨-, hreadable, -⟩ := engineEffect_frame s e
  exact hreadable

theorem fetchAdmitted_eq_true {s : State} : fetchAdmitted s = true ↔ s.wrap = false ∧ memReadable s s.ptr = true := by
  simp [fetchAdmitted]

/-- E-SHIFT and E-END-BUF read nothing; the other micro-steps read the byte at PTR, each where the fetch is admitted (R90 to R94). -/
theorem engineEffect_fetches {s : State} {e : EngineStep} (hnext : engineNext s = some e) :
    (engineEffect s e).fetches = s.fetches ∨
    ((engineEffect s e).fetches = s.ptr :: s.fetches ∧ s.seq ≠ .none ∧ s.bitcnt = 0 ∧ fetchAdmitted s = true) := by
  obtain ⟨rfl, -⟩ | ⟨rfl, -⟩ | ⟨rfl, hb, hq, -, hadm⟩ | ⟨rfl, hb, hq, hadm, -⟩ | ⟨rfl, hb, hq, hadm, -⟩ :=
    engineNext_cases hnext
  · exact .inl rfl
  · exact .inl rfl
  · exact .inr ⟨rfl, by simp [hq], hb, hadm⟩
  · exact .inr ⟨rfl, by simp [hq], hb, hadm⟩
  · exact .inr ⟨rfl, by simp [hq], hb, hadm⟩

/-- Settles O52: of all effects, a micro-step's alone reads, and the readable addresses are written by none. -/
theorem readsOnlyAdmittedPtr : Obligations.ReadsOnlyAdmittedPtr := by
  intro s t hstep
  cases stepEffect_of_step hstep with
  | command => exact ⟨instrEffect_readable _ _, .inl (instrEffect_fetches _ _)⟩
  | illegal | read | wait | write | reset | rest => exact ⟨rfl, .inl rfl⟩
  | @engine e ts _ hnext =>
    refine ⟨engineEffect_readable _ _, (engineEffect_fetches (s := { s with turns := ts }) hnext).imp_right ?_⟩
    rintro ⟨hread, hq, hb, hadm⟩
    exact ⟨hread, hq, hb, fetchAdmitted_eq_true.mp hadm⟩

/-! ### The race of a HOST write with a fetch -/

theorem engineNext_eq_fetchBuf {s : State} : engineNext s = some .fetchBuf ↔
    s.bitcnt = 0 ∧ s.seq = .buf ∧ s.rem ≠ 0#32 ∧ fetchAdmitted s = true := by
  constructor
  · intro h
    simpa using engineNext_cases h
  · rintro ⟨hb, hq, hr, hadm⟩
    simp [engineNext, hb, hq, hr, hadm]

theorem engineNext_eq_fetchStr {s : State} : engineNext s = some .fetchStr ↔
    s.bitcnt = 0 ∧ s.seq = .str ∧ fetchAdmitted s = true ∧ readMem s s.ptr ≠ 0#8 := by
  constructor
  · intro h
    simpa using engineNext_cases h
  · rintro ⟨hb, hq, hadm, hne⟩
    simp [engineNext, hb, hq, hadm, hne]

theorem engineNext_eq_endStr {s : State} : engineNext s = some .endStr ↔
    s.bitcnt = 0 ∧ s.seq = .str ∧ fetchAdmitted s = true ∧ readMem s s.ptr = 0#8 := by
  constructor
  · intro h
    simpa using engineNext_cases h
  · rintro ⟨hb, hq, hadm, hz⟩
    simp [engineNext, hb, hq, hadm, hz]

/-- A string byte is read, whichever it is, where the fetch is admitted; BM decides only what becomes of it (R93, R94). -/
theorem engineNext_eq_fetchStr_or_endStr {s : State} : engineNext s = some .fetchStr ∨ engineNext s = some .endStr ↔
    s.bitcnt = 0 ∧ s.seq = .str ∧ fetchAdmitted s = true := by
  simp only [engineNext_eq_fetchStr, engineNext_eq_endStr, ← and_or_left, ne_or_eq, and_true]

theorem engineEnabled_of_engineNext {s : State} {e : EngineStep} (h : engineNext s = some e) : engineEnabled s = true := by
  rw [engineEnabled, h]
  rfl

/-- An ENGINE that can move does so where the next choice is its own, whether or not the HOST could move. -/
theorem nextAgent_engine_of_turns {s : State} {ts : List Agent} (he : engineEnabled s = true)
    (hts : s.turns = .engine :: ts) : nextAgent s = some .engine := by
  cases hh : hostEnabled s <;> simp [nextAgent, contended, hh, he, hts]

/-- At the ENGINE's turn its next micro-step is the whole of a run of one step; the turns left are those of some list. -/
theorem runFor_one_of_engine {s : State} {e : EngineStep} {ts : List Agent} (hts : s.turns = .engine :: ts)
    (hnext : engineNext s = some e) : ∃ ts', runFor 1 s = .next (engineEffect { s with turns := ts' } e) := by
  have hagent := nextAgent_engine_of_turns (engineEnabled_of_engineNext hnext) hts
  exact ⟨_, runFor_succ_of_step (step_of_engine hagent hnext) 0⟩

theorem engine_takes_bufferByte {s : State} {ts : List Agent} (hts : s.turns = .engine :: ts)
    (hnext : engineNext s = some .fetchBuf) :
    ∃ t, runFor 1 s = .next t ∧ bufferByteTaken s (readMem s s.ptr) t := by
  obtain ⟨ts', hrun⟩ := runFor_one_of_engine hts hnext
  obtain ⟨-, hq, -⟩ := engineNext_eq_fetchBuf.mp hnext
  exact ⟨_, hrun, rfl, rfl, hq, rfl⟩

theorem engineFetchStr_takes_byte {s : State} (hq : s.seq = .str) (hne : readMem s s.ptr ≠ 0#8) :
    stringByteTaken s (readMem s s.ptr) (engineFetchStr s) :=
  ⟨fun hz => absurd hz hne, fun _ => ⟨rfl, by simp [engineFetchStr, inc_eq], rfl, rfl, hq⟩, rfl⟩

theorem engineEndStr_takes_byte {s : State} (hb : s.bitcnt = 0) (hz : readMem s s.ptr = 0#8) :
    stringByteTaken s (readMem s s.ptr) (engineEndStr s) :=
  ⟨fun _ => ⟨rfl, rfl, rfl, busy_eq_false.mpr ⟨hb, rfl⟩⟩, fun hne => absurd hz hne, rfl⟩

theorem engine_takes_stringByte {s : State} {ts : List Agent} (hts : s.turns = .engine :: ts)
    (hnext : engineNext s = some .fetchStr ∨ engineNext s = some .endStr) :
    ∃ t, runFor 1 s = .next t ∧ stringByteTaken s (readMem s s.ptr) t := by
  obtain h | h := hnext
  · obtain ⟨ts', hrun⟩ := runFor_one_of_engine hts h
    obtain ⟨-, hq, -, hne⟩ := engineNext_eq_fetchStr.mp h
    exact ⟨_, hrun, engineFetchStr_takes_byte (s := { s with turns := ts' }) hq hne⟩
  · obtain ⟨ts', hrun⟩ := runFor_one_of_engine hts h
    obtain ⟨hb, -, -, hz⟩ := engineNext_eq_endStr.mp h
    exact ⟨_, hrun, engineEndStr_takes_byte (s := { s with turns := ts' }) hb hz⟩

/-- The state after the HOST's write of `b` at PTR, with `hs` its steps still to take, at the ENGINE's turn. -/
def afterRacingWrite (s : State) (b : Byte) (hs : List HostStep) : State :=
  writeMem { s with host := hs, turns := [.engine] } s.ptr b

theorem readMem_afterRacingWrite {s : State} (b : Byte) (hs : List HostStep) (hm : Memory.wf s.mem = true) :
    readMem (afterRacingWrite s b hs) (afterRacingWrite s b hs).ptr = b :=
  (readMem_writeMem (s := { s with host := hs, turns := [.engine] }) hm).trans (if_pos rfl)

/-- Where the HOST moves first, its write is the first of the two steps. -/
theorem runFor_two_of_racing_write {s : State} {b : Byte} {hs : List HostStep} (hhost : s.host = .write s.ptr b :: hs)
    (he : engineEnabled s = true) :
    runFor 2 { s with turns := [.host, .engine] } = runFor 1 (afterRacingWrite s b hs) := by
  have hh : hostEnabled s = true := by simp [hostEnabled, hhost]
  have hu : ({ s with turns := [.engine] } : State).host = .write s.ptr b :: hs := hhost
  have hstep := (eitherAgentMayMove s [.engine] hh he).1
  rw [hostTurn_write hu, dequeue_of_host hu] at hstep
  exact runFor_succ_of_step hstep 1

/-- The write leaves SEQ, REM, WRAP, PTR and the readable addresses, which make a buffer fetch due. -/
theorem engineNext_afterRacingWrite_of_fetchBuf {s : State} (b : Byte) (hs : List HostStep)
    (hnext : engineNext s = some .fetchBuf) : engineNext (afterRacingWrite s b hs) = some .fetchBuf := by
  have hdue := engineNext_eq_fetchBuf.mp hnext
  exact engineNext_eq_fetchBuf.mpr hdue

/-- The write leaves a string fetch due, though the byte it finds may be another. -/
theorem engineNext_afterRacingWrite_of_string {s : State} (b : Byte) (hs : List HostStep)
    (hnext : engineNext s = some .fetchStr ∨ engineNext s = some .endStr) :
    engineNext (afterRacingWrite s b hs) = some .fetchStr ∨ engineNext (afterRacingWrite s b hs) = some .endStr := by
  have hdue := engineNext_eq_fetchStr_or_endStr.mp hnext
  exact engineNext_eq_fetchStr_or_endStr.mpr hdue

/-- Settles O55: the ENGINE takes the byte that BM holds at its turn, the old one before the HOST's write and the new one after. -/
theorem raceTakesOldOrNewByte : Obligations.RaceTakesOldOrNewByte := by
  intro s b hs hm hhost
  have hnew := readMem_afterRacingWrite b hs hm
  refine ⟨fun hnext => ⟨engine_takes_bufferByte rfl hnext, ?_⟩, fun hnext => ⟨engine_takes_stringByte rfl hnext, ?_⟩⟩
  · rw [runFor_two_of_racing_write hhost (engineEnabled_of_engineNext hnext)]
    obtain ⟨t, hrun, htaken⟩ := engine_takes_bufferByte rfl (engineNext_afterRacingWrite_of_fetchBuf b hs hnext)
    exact ⟨t, hrun, hnew ▸ htaken⟩
  · rw [runFor_two_of_racing_write hhost (hnext.elim engineEnabled_of_engineNext engineEnabled_of_engineNext)]
    obtain ⟨t, hrun, htaken⟩ := engine_takes_stringByte rfl (engineNext_afterRacingWrite_of_string b hs hnext)
    exact ⟨t, hrun, hnew ▸ htaken⟩

end Sys2Proof.Machine

/-! PROOF. The encoding (30_encoding.md R62 to R74): the fields of a command word, the row of R64 that a legal word is on, the
round trip, and the assembler. -/

namespace Sys2Proof.Machine

/-! ### The fields of a command word (R62) -/

theorem opcField_toNat (w : Word) : (opcField w).toNat = w.toNat / 2 ^ 24 := by
  simp only [opcField, BitVec.extractLsb'_toNat, Nat.shiftRight_eq_div_pow]
  omega

theorem rsvField_toNat (w : Word) : (rsvField w).toNat = w.toNat / 2 ^ 8 % 2 ^ 16 := by
  simp only [rsvField, BitVec.extractLsb'_toNat, Nat.shiftRight_eq_div_pow]

theorem immField_toNat (w : Word) : (immField w).toNat = w.toNat % 2 ^ 8 := by
  simp only [immField, BitVec.extractLsb'_toNat, Nat.shiftRight_zero]

/-- The three fields leave no bit out. -/
theorem word_eq_of_fields {v w : Word} (hopc : opcField v = opcField w) (hrsv : rsvField v = rsvField w)
    (himm : immField v = immField w) : v = w := by
  have hopc := congrArg BitVec.toNat hopc
  have hrsv := congrArg BitVec.toNat hrsv
  have himm := congrArg BitVec.toNat himm
  rw [opcField_toNat, opcField_toNat] at hopc
  rw [rsvField_toNat, rsvField_toNat] at hrsv
  rw [immField_toNat, immField_toNat] at himm
  apply BitVec.eq_of_toNat_eq
  omega

/-- UPDB's command word with the byte `b` (R64, R65). -/
def updbWord (b : Byte) : Word := 0x03000000#32 ||| b.setWidth 32

theorem updbWord_toNat (b : Byte) : (updbWord b).toNat = 0x03000000 + b.toNat := by
  have hb : b.toNat % 2 ^ 32 = b.toNat := by omega
  rw [updbWord, BitVec.toNat_or, BitVec.toNat_setWidth, hb]
  exact (Nat.two_pow_add_eq_or_of_lt b.isLt 0x030000).symm

@[simp] theorem opcField_updbWord (b : Byte) : opcField (updbWord b) = 0x03#8 := by
  apply BitVec.eq_of_toNat_eq
  rw [opcField_toNat, updbWord_toNat, BitVec.toNat_ofNat]
  omega

@[simp] theorem rsvField_updbWord (b : Byte) : rsvField (updbWord b) = 0#16 := by
  apply BitVec.eq_of_toNat_eq
  rw [rsvField_toNat, updbWord_toNat, BitVec.toNat_ofNat]
  omega

@[simp] theorem immField_updbWord (b : Byte) : immField (updbWord b) = b := by
  apply BitVec.eq_of_toNat_eq
  rw [immField_toNat, updbWord_toNat]
  omega

/-! ### The row of a legal command word (R64) -/

/-- The row of R64 that a transaction's command word is on, with the instruction it then stands for (R63, R66). -/
inductive OnRow (c : Transaction) : Instr → Prop
  | nop (hcmd : c.cmd = 0x00000000#32) : OnRow c .nop
  | init (hcmd : c.cmd = 0x01000000#32) : OnRow c .init
  | load (hcmd : c.cmd = 0x02000000#32) : OnRow c (.load c.arg0)
  | updb {b : Byte} (hcmd : c.cmd = updbWord b) : OnRow c (.updb b)
  | upd (hcmd : c.cmd = 0x04000000#32) : OnRow c (.upd c.arg0 c.arg1)
  | fin (hcmd : c.cmd = 0x05000000#32) : OnRow c .fin
  | bufcrc (hcmd : c.cmd = 0x06000000#32) : OnRow c (.bufcrc c.arg0 c.arg1)
  | strcrc (hcmd : c.cmd = 0x07000000#32) : OnRow c (.strcrc c.arg0)

/-- Outside UPDB, a word whose RSV and IMM8 are 0 is on the row of its opcode. -/
theorem onRow_of_decodeOpcode {c : Transaction} {i : Instr} (hrsv : rsvField c.cmd = 0) (himm : immField c.cmd = 0)
    (h : decodeOpcode (opcField c.cmd) c = .ok i) : OnRow c i := by
  have hcmd {w : Word} (hr : rsvField w = 0) (hi : immField w = 0) (ho : opcField c.cmd = opcField w) : c.cmd = w :=
    word_eq_of_fields ho (hrsv.trans hr.symm) (himm.trans hi.symm)
  unfold decodeOpcode at h
  split at h <;> cases h
  · exact .nop (hcmd rfl rfl ‹_›)
  · exact .init (hcmd rfl rfl ‹_›)
  · exact .load (hcmd rfl rfl ‹_›)
  · exact .upd (hcmd rfl rfl ‹_›)
  · exact .fin (hcmd rfl rfl ‹_›)
  · exact .bufcrc (hcmd rfl rfl ‹_›)
  · exact .strcrc (hcmd rfl rfl ‹_›)

theorem onRow_of_decode {c : Transaction} {i : Instr} (h : decode c = .ok i) : OnRow c i := by
  unfold decode at h
  split at h
  · cases h
  · have hrsv : rsvField c.cmd = 0 := not_not.mp ‹_›
    split at h
    · cases h
      exact .updb (word_eq_of_fields (by simpa) (by simpa) (by simp))
    · split at h
      · cases h
      · exact onRow_of_decodeOpcode hrsv (not_not.mp ‹_›) h

theorem decode_updbWord (b : Byte) (a0 a1 : Word) : decode ⟨updbWord b, a0, a1⟩ = .ok (.updb b) := by
  simp [decode]

/-- With RSV and IMM8 0, every opcode but UPDB's decides by itself. -/
theorem decode_eq_decodeOpcode {w : Word} (hrsv : rsvField w = 0) (hopc : opcField w ≠ 0x03#8) (himm : immField w = 0)
    (a0 a1 : Word) : decode ⟨w, a0, a1⟩ = decodeOpcode (opcField w) ⟨w, a0, a1⟩ := by
  simp only [decode, hrsv, hopc, himm, ne_eq, not_true_eq_false, if_false]

theorem decode_of_onRow {c : Transaction} {i : Instr} (h : OnRow c i) : decode c = .ok i := by
  obtain ⟨w, a0, a1⟩ := c
  cases h with
  | @updb b hcmd =>
    obtain rfl : w = updbWord b := hcmd
    exact decode_updbWord b a0 a1
  | nop hcmd | init hcmd | load hcmd | upd hcmd | fin hcmd | bufcrc hcmd | strcrc hcmd =>
    simp only at hcmd
    subst hcmd
    exact decode_eq_decodeOpcode rfl (by decide) rfl a0 a1

/-- The legal transactions are those on a row of R64, and stand for the row's instruction. -/
theorem decode_eq_ok_iff {c : Transaction} {i : Instr} : decode c = .ok i ↔ OnRow c i :=
  ⟨onRow_of_decode, decode_of_onRow⟩

/-- Settles O5: a command is encoded on its own row, and a read by its own address. -/
theorem decodeEncodeRoundTrip : Obligations.DecodeEncodeRoundTrip := by
  intro i
  cases i with
  | updb b => exact decode_updbWord b 0#32 0#32
  | nop => exact decode_of_onRow (.nop rfl)
  | init => exact decode_of_onRow (.init rfl)
  | load v => exact decode_of_onRow (c := ⟨_, v, 0#32⟩) (.load rfl)
  | upd p n => exact decode_of_onRow (c := ⟨_, p, n⟩) (.upd rfl)
  | fin => exact decode_of_onRow (.fin rfl)
  | bufcrc p n => exact decode_of_onRow (c := ⟨_, p, n⟩) (.bufcrc rfl)
  | strcrc p => exact decode_of_onRow (c := ⟨_, p, 0#32⟩) (.strcrc rfl)
  | rdStatus | rdAcc | rdResult | rdRsv3 => rfl

/-- Settles O6: on each row of R64 the operand words are the ones the row's instruction takes (R66). -/
theorem encodeRestoresCommandWord : Obligations.EncodeRestoresCommandWord := by
  intro ⟨w, a0, a1⟩ i h
  cases onRow_of_decode h with
  | load hcmd | upd hcmd | bufcrc hcmd | strcrc hcmd | updb hcmd | nop hcmd | init hcmd | fin hcmd =>
    cases hcmd
    exact ⟨_, _, rfl, by simp⟩

/-! ### Illegal command words (R68, R74) -/

/-- A legal word meets none of R68's three conditions. -/
theorem fields_of_onRow {c : Transaction} {i : Instr} (h : OnRow c i) :
    c.cmd.toNat / 2 ^ 24 < 0x08 ∧ c.cmd.toNat / 2 ^ 8 % 2 ^ 16 = 0 ∧
      (c.cmd.toNat / 2 ^ 24 = 0x03 ∨ c.cmd.toNat % 2 ^ 8 = 0) := by
  cases h with
  | @updb b hcmd =>
    rw [hcmd, updbWord_toNat]
    omega
  | nop hcmd | init hcmd | load hcmd | upd hcmd | fin hcmd | bufcrc hcmd | strcrc hcmd =>
    rw [hcmd]
    decide

theorem exists_decode_error_iff {c : Transaction} : (∃ e, decode c = .error e) ↔ ∀ i, ¬ OnRow c i := by
  simp only [← decode_eq_ok_iff]
  cases decode c <;> simp

/-- Each of R68's three conditions makes a command word illegal. -/
theorem decode_error_of_fields {c : Transaction} (h : c.cmd.toNat / 2 ^ 24 ≥ 0x08 ∨ c.cmd.toNat / 2 ^ 8 % 2 ^ 16 ≠ 0 ∨
    (c.cmd.toNat / 2 ^ 24 ≠ 0x03 ∧ c.cmd.toNat % 2 ^ 8 ≠ 0)) : ∃ e, decode c = .error e := by
  refine exists_decode_error_iff.mpr fun i hrow => ?_
  have := fields_of_onRow hrow
  omega

/-- Settles O7: RSV, OPC and IMM8 at the values of a row give the row's word. -/
theorem decodeFollowsFields : Obligations.DecodeFollowsFields := by
  intro c opc rsv imm
  refine ⟨fun hr => decode_error_of_fields (.inr (.inl hr)), fun hr ho => ?_,
    fun _ ho hi => decode_error_of_fields (.inr (.inr ⟨ho, hi⟩)), fun hr hi => ?_⟩
  · refine decode_of_onRow (.updb (BitVec.eq_of_toNat_eq ?_))
    rw [updbWord_toNat, BitVec.toNat_ofNat]
    omega
  · have hcmd : c.cmd.toNat = opc * 2 ^ 24 := by omega
    have hc {k : Nat} (ho : opc = k) : c.cmd = BitVec.ofNat 32 (k * 2 ^ 24) := by
      rw [← ho, ← hcmd, BitVec.ofNat_toNat, BitVec.setWidth_eq]
    exact ⟨fun ho => decode_of_onRow (.nop (hc ho)), fun ho => decode_of_onRow (.init (hc ho)),
      fun ho => decode_of_onRow (.load (hc ho)), fun ho => decode_of_onRow (.upd (hc ho)),
      fun ho => decode_of_onRow (.fin (hc ho)), fun ho => decode_of_onRow (.bufcrc (hc ho)),
      fun ho => decode_of_onRow (.strcrc (hc ho)), fun ho => decode_error_of_fields (.inl ho)⟩

/-! ### Match and mask (R64) -/

/-- A word meets UPDB's match and mask exactly if it is UPDB's word with some byte. -/
theorem updbMask_iff {w : Word} : w &&& 0xFFFFFF00#32 = 0x03000000#32 ↔ ∃ b, w = updbWord b := by
  constructor
  · intro h
    refine ⟨immField w, ?_⟩
    rw [updbWord, ← h]
    ext i hi
    interval_cases i <;> simp [immField]
  · rintro ⟨b, rfl⟩
    have hb : b.setWidth 32 &&& 0xFFFFFF00#32 = 0#32 := by
      ext i hi
      interval_cases i <;> simp
    simp [updbWord, BitVec.and_or_distrib_right, hb]

theorem and_fullMask (w : Word) : w &&& 0xFFFFFFFF#32 = w := BitVec.and_allOnes

/-- A legal transaction has the command word its instruction is encoded with. -/
theorem cmd_of_decode {c d : Transaction} {i : Instr} (h : decode c = .ok i) (henc : encode i = .command d) :
    c.cmd = d.cmd := by
  obtain ⟨a0, a1, henc', -⟩ := encodeRestoresCommandWord c i h
  cases henc.symm.trans henc'
  rfl

/-- A word on some row of the table is legal. -/
theorem decode_ok_of_selects {c : Transaction} {r : Row} (hr : r ∈ commandRows) (h : r.selects c.cmd = true) :
    ∃ i, decode c = .ok i := by
  simp only [decode_eq_ok_iff]
  simp only [commandRows, List.mem_cons, List.not_mem_nil, or_false] at hr
  obtain rfl | rfl | rfl | rfl | rfl | rfl | rfl | rfl := hr <;>
    simp only [Row.selects, and_fullMask, updbMask_iff, beq_iff_eq] at h
  · exact ⟨_, .nop h⟩
  · exact ⟨_, .init h⟩
  · exact ⟨_, .load h⟩
  · obtain ⟨b, h⟩ := h
    exact ⟨_, .updb h⟩
  · exact ⟨_, .upd h⟩
  · exact ⟨_, .fin h⟩
  · exact ⟨_, .bufcrc h⟩
  · exact ⟨_, .strcrc h⟩

theorem ownRow (i : Instr) : Laws.OwnRow.Statement i := by
  cases i with
  | nop => exact Laws.OwnRow.nop
  | init => exact Laws.OwnRow.init
  | load v => exact Laws.OwnRow.load v
  | updb b => exact Laws.OwnRow.updb b
  | upd p n => exact Laws.OwnRow.upd p n
  | fin => exact Laws.OwnRow.fin
  | bufcrc p n => exact Laws.OwnRow.bufcrc p n
  | strcrc p => exact Laws.OwnRow.strcrc p
  | rdStatus => exact Laws.OwnRow.rdStatus
  | rdAcc => exact Laws.OwnRow.rdAcc
  | rdResult => exact Laws.OwnRow.rdResult
  | rdRsv3 => exact Laws.OwnRow.rdRsv3

/-- Of the eight rows a legal word selects its own alone. -/
theorem rowsSelecting_of_decode {c : Transaction} {i : Instr} (h : decode c = .ok i) : ∃ r, rowsSelecting c.cmd = [r] := by
  obtain ⟨a0, a1, henc, -⟩ := encodeRestoresCommandWord c i h
  have hrow := ownRow i
  rw [Laws.OwnRow.Statement, henc] at hrow
  obtain ⟨r, -, hsel⟩ := hrow
  exact ⟨r, hsel⟩

theorem rowsSelecting_of_illegal {c : Transaction} {e : IllegalReason} (h : decode c = .error e) :
    rowsSelecting c.cmd = [] := by
  refine List.filter_eq_nil_iff.mpr fun r hr hsel => ?_
  obtain ⟨i, hi⟩ := decode_ok_of_selects hr hsel
  simp [hi] at h

/-- Settles O8: the row a word is on is the one whose match and mask it meets; a legal word's own row is the only one. -/
theorem rowsSelectExactlyLegalWords : Obligations.RowsSelectExactlyLegalWords := by
  intro c
  simp only [and_fullMask, updbMask_iff]
  refine ⟨⟨fun h => cmd_of_decode h rfl, fun h => decode_of_onRow (.nop h)⟩,
    ⟨fun h => cmd_of_decode h rfl, fun h => decode_of_onRow (.init h)⟩,
    ⟨fun h => cmd_of_decode h rfl, fun h => decode_of_onRow (.load h)⟩,
    exists_congr fun b => ⟨fun h => cmd_of_decode h rfl, fun h => decode_of_onRow (.updb h)⟩,
    ⟨fun h => cmd_of_decode h rfl, fun h => decode_of_onRow (.upd h)⟩,
    ⟨fun h => cmd_of_decode h rfl, fun h => decode_of_onRow (.fin h)⟩,
    ⟨fun h => cmd_of_decode h rfl, fun h => decode_of_onRow (.bufcrc h)⟩,
    ⟨fun h => cmd_of_decode h rfl, fun h => decode_of_onRow (.strcrc h)⟩, ?_⟩
  cases hdec : decode c with
  | ok i =>
    obtain ⟨r, hsel⟩ := rowsSelecting_of_decode hdec
    simp [hsel]
  | error e => simp [rowsSelecting_of_illegal hdec]

/-! ### Ignored operand words (R67) -/

/-- Operand words reach the instruction through the opcode alone (R66). -/
theorem decode_congr {c d : Transaction} (hcmd : c.cmd = d.cmd)
    (hopc : decodeOpcode (opcField d.cmd) c = decodeOpcode (opcField d.cmd) d) : decode c = decode d := by
  rw [decode, decode, hcmd, hopc]

/-- The opcodes that take no operand word. -/
theorem decodeOpcode_ignores_operands {opc : Byte} (h : opc.toNat ∉ [0x02, 0x04, 0x06, 0x07]) (c d : Transaction) :
    decodeOpcode opc c = decodeOpcode opc d := by
  unfold decodeOpcode
  split
  -- LOAD, UPD, BUFCRC and STRCRC
  case h_3 | h_4 | h_6 | h_7 => exact absurd h (by decide)
  all_goals rfl

/-- The opcodes that take ARG0 at most. -/
theorem decodeOpcode_ignores_arg1 {opc : Byte} (h : opc.toNat ∉ [0x04, 0x06]) {c d : Transaction} (harg : c.arg0 = d.arg0) :
    decodeOpcode opc c = decodeOpcode opc d := by
  unfold decodeOpcode
  rw [harg]
  split
  -- UPD and BUFCRC
  case h_4 | h_6 => exact absurd h (by decide)
  all_goals rfl

/-- Settles O9: the row of such an opcode takes no such operand word. -/
theorem ignoredOperandsHaveNoEffect : Obligations.IgnoredOperandsHaveNoEffect := by
  intro w a0 a1 b0 b1
  rw [← opcField_toNat]
  exact ⟨fun h => decode_congr rfl (decodeOpcode_ignores_operands h _ _),
    fun h => decode_congr rfl (decodeOpcode_ignores_arg1 h rfl)⟩

/-! ### The assembler (R72, R73) -/

@[simp] theorem inByteRange_iff {n : Nat} : inByteRange n = true ↔ n ≤ 255 :=
  decide_eq_true_iff.trans Nat.lt_succ_iff

@[simp] theorem inWordRange_iff {n : Nat} : inWordRange n = true ↔ n < 2 ^ 32 := decide_eq_true_iff

theorem issue_updb {b : Nat} (hb : b ≤ 255) :
    issue (.updb (asmByte b)) = .request (.command ⟨BitVec.ofNat 32 (0x03000000 + b), 0#32, 0#32⟩) := by
  have hword : updbWord (asmByte b) = BitVec.ofNat 32 (0x03000000 + b) := by
    apply BitVec.eq_of_toNat_eq
    rw [updbWord_toNat, asmByte, BitVec.toNat_ofNat, BitVec.toNat_ofNat]
    omega
  rw [← hword]
  rfl

/-- Settles O60: a line's range check is the stated one, and a line that passes it has the table's words. -/
theorem assemblerEncodesInRangeOnly : Obligations.AssemblerEncodesInRangeOnly := by
  refine ⟨fun v => if_congr ?_ rfl rfl, fun v => rfl, fun b => ite_congr (propext ?_) (fun hb => ?_) (fun _ => rfl),
    fun a n => if_congr ?_ rfl rfl, fun a n => if_congr ?_ rfl rfl, fun a => if_congr ?_ rfl rfl,
    fun w a0 a1 => if_congr ?_ rfl rfl, fun bs hbs => ite_congr (propext ?_) (fun hb => ?_) (fun _ => rfl),
    rfl, rfl, rfl, rfl, rfl, rfl, rfl, rfl, rfl, rfl⟩
  · exact inWordRange_iff
  · exact inByteRange_iff
  · exact congrArg (fun x => some [x]) (issue_updb hb)
  · simp [Asm.wf]
  · simp [Asm.wf]
  · exact inWordRange_iff
  · simp [Asm.wf, and_assoc]
  · simp [Asm.wf, hbs]
  · exact congrArg some (List.map_congr_left fun b h => issue_updb (hb b h))

/-- Settles O10: the packing puts each word's fields where the decoder takes them. -/
theorem tableWordsDecode : Obligations.TableWordsDecode := by
  refine ⟨?_, ?_, ?_, ?_, ?_, ?_, ?_, ?_⟩ <;> decide

end Sys2Proof.Machine

/-! PROOF. The two ports at work (30_encoding.md R61, R67, R68, R71, R73): a step that takes a request, a held transaction, an
illegal one, the polling loop and the end of a run. -/

namespace Sys2Proof.Machine

/-! ### The HOST's step -/

/-- A turn is used up exactly where the ENGINE could have moved beside a HOST that can. -/
theorem takeTurn_of_hostEnabled {s : State} (h : hostEnabled s = true) :
    takeTurn s = { s with turns := if engineEnabled s then s.turns.tail else s.turns } := by
  unfold takeTurn contended dropTurn
  cases engineEnabled s <;> simp [h]

/-- At the HOST's turn, its next step; a choice of turn is used up where the ENGINE could have moved. -/
theorem step_of_hostTurn {s : State} (hagent : nextAgent s = some .host) :
    step s = hostTurn { s with turns := if engineEnabled s then s.turns.tail else s.turns } := by
  rw [step_of_nextAgent_host hagent, takeTurn_of_hostEnabled (hostEnabled_of_nextAgent hagent)]

theorem step_of_request {s : State} {r : Request} {hs : List HostStep} (hhost : s.host = .request r :: hs)
    (hagent : nextAgent s = some .host) :
    step s = runRequest r { s with host := hs, turns := if engineEnabled s then s.turns.tail else s.turns } := by
  have hu : ({ s with turns := if engineEnabled s then s.turns.tail else s.turns } : State).host = .request r :: hs := hhost
  rw [step_of_hostTurn hagent, hostTurn_request hu, dequeue_of_host hu]

/-- Settles O11: the request the HOST takes is the one at the head of its list. -/
theorem stepRunsDecodedRequest : Obligations.StepRunsDecodedRequest := by
  intro s r hs i hhost hdec hagent
  rw [step_of_request hhost hagent, runRequest, hdec]

/-! ### Reads -/

/-- A HOST that can move does so where the next choice is its own, whether or not the ENGINE could move. -/
theorem nextAgent_host_of_turns {s : State} {ts : List Agent} (hh : hostEnabled s = true) (hts : s.turns = .host :: ts) :
    nextAgent s = some .host := by
  cases he : engineEnabled s <;> simp [nextAgent, contended, hh, he, hts]

/-- Settles O23: a read is enabled in every state, and adds to the record of reads alone. -/
theorem readTakenAtAnyStep : Obligations.ReadTakenAtAnyStep := by
  intro s a hs ts
  have hagent := nextAgent_host_of_turns (s := { s with host := .request (.read a) :: hs, turns := .host :: ts }) rfl rfl
  rw [step_of_request rfl hagent, runRequest_read]
  exact ⟨_, rfl, rfl, ⟨rfl, rfl, rfl, rfl, rfl, rfl, rfl, rfl, rfl⟩, rfl, rfl, rfl⟩

/-- NOP and the reads have an effect on the record of reads alone, NOP none at all. -/
theorem instrEffect_of_nop_or_read {i : Instr} (hi : i ∈ [.nop, .rdStatus, .rdAcc, .rdResult, .rdRsv3]) (s : State) :
    ∃ rs, instrEffect i s = { s with reads := rs } ∧ (i = .nop → rs = s.reads) := by
  cases i with
  | nop => exact ⟨_, rfl, fun _ => rfl⟩
  | rdStatus | rdAcc | rdResult | rdRsv3 => exact ⟨_, rfl, nofun⟩
  | init | load | updb | upd | fin | bufcrc | strcrc => simp at hi

/-- Settles O25: accepted, held or read, such an instruction leaves all but the record of reads. -/
theorem frameNopAndReads : Obligations.FrameNopAndReads := by
  intro s t i hi h
  obtain ⟨rs, heff, hnop⟩ := instrEffect_of_nop_or_read hi s
  obtain rfl | rfl := exec_next h
  · simp [sameBlock, sameMemory, sameSurroundings]
  · simpa [heff, sameBlock, sameMemory, sameSurroundings, readMem] using hnop

/-! ### Transactions -/

theorem engineEnabled_idle {s : State} (hidle : busy s = false) : engineEnabled s = false := by
  rw [engineEnabled, engineNext_idle hidle]
  rfl

theorem hostEnabled_of_command {s : State} {c : Transaction} {hs : List HostStep}
    (hhost : s.host = .request (.command c) :: hs) : hostEnabled s = !busy s := by
  simp only [hostEnabled, hhost]

/-- On an idle block a transaction is enabled, and no ENGINE step is (R61, R89). -/
theorem step_of_command_idle {s : State} {c : Transaction} {hs : List HostStep} (hhost : s.host = .request (.command c) :: hs)
    (hidle : busy s = false) : step s = runRequest (.command c) { s with host := hs } := by
  have hen : hostEnabled s = true := by rw [hostEnabled_of_command hhost, hidle]; rfl
  have hrest := engineEnabled_idle hidle
  have hagent : nextAgent s = some .host := by simp [nextAgent, contended, hen, hrest]
  rw [step_of_request hhost hagent, hrest]
  rfl

/-- Where the HOST cannot move, its list of steps stays. -/
theorem host_of_step_of_not_hostEnabled {s t : State} (hen : hostEnabled s = false) (h : step s = .next t) :
    t.host = s.host := by
  obtain ⟨hagent, -⟩ | ⟨-, e, -, rfl⟩ | ⟨-, -, rfl⟩ := step_cases h
  · simp [hostEnabled_of_nextAgent hagent] at hen
  · obtain ⟨-, -, hhost, -⟩ := engineEffect_frame (takeTurn s) e
    rw [hhost, host_takeTurn]
  · rfl

/-- Settles O30: BUSY alone decides whether a transaction is enabled, and where it is not the HOST does not move. -/
theorem heldUntilIdleThenAccepted : Obligations.HeldUntilIdleThenAccepted := by
  refine ⟨fun s c hs hhost => ⟨fun hbusy => ?_, step_of_command_idle hhost⟩, fun s i hc hbusy => ?_⟩
  · have hen : hostEnabled s = false := by rw [hostEnabled_of_command hhost, hbusy]; rfl
    exact ⟨hen, fun t => host_of_step_of_not_hostEnabled hen⟩
  · rw [exec_eq, if_pos hc, accept_busy hbusy]

/-- Settles O31: the word is illegal, and setting ILLEGAL leaves the block idle. -/
theorem illegalCommandSetsFlagOnly : Obligations.IllegalCommandSetsFlagOnly := by
  intro s c hs hhost hidle hfields
  obtain ⟨e, hdec⟩ := decode_error_of_fields hfields
  have hidle' : busy { s with host := hs, illegal := true } = false := hidle
  refine ⟨_, step_illegal hhost hidle hdec, rfl, hidle', fun c' hs' hnext => ?_⟩
  rw [hostEnabled_of_command (hs := hs') hnext, Bool.not_eq_true']
  exact hidle'

/-! ### What every step keeps of the HOST's list and of the record of reads -/

/-- A property that every step keeps holds at the end of a run. -/
theorem runFor_keeps {P : State → Prop} (hkeep : ∀ {s t : State}, P s → step s = .next t → P t) {s t : State} {k : Nat}
    (hs : P s) (h : runFor k s = .next t) : P t := by
  induction k generalizing s with
  | zero => cases h; exact hs
  | succ k ih =>
    obtain ⟨m, hm, h⟩ := runFor_succ_eq_next.mp h
    exact ih (hkeep hs hm) h

@[simp] theorem instrEffect_host (i : Instr) (s : State) : (instrEffect i s).host = s.host := by
  cases i <;> rfl

@[simp] theorem engineEffect_host (s : State) (e : EngineStep) : (engineEffect s e).host = s.host := by
  cases e <;> rfl

@[simp] theorem engineEffect_reads (s : State) (e : EngineStep) : (engineEffect s e).reads = s.reads := by
  cases e <;> rfl

/-- The HOST goes through its list and adds nothing to it. -/
theorem host_suffix_of_step {s t : State} (h : step s = .next t) : t.host <:+ s.host := by
  cases stepEffect_of_step h with
  | command _ hhost | illegal _ hhost => simp [hhost]
  | read hhost | write hhost | reset hhost => simp [hhost]
  | wait hhost hnext =>
    subst hnext
    split <;> simp [hhost]
  | engine | rest => simp

theorem instrEffect_reads_suffix (i : Instr) (s : State) : s.reads <:+ (instrEffect i s).reads := by
  cases i with
  | rdStatus | rdAcc | rdResult | rdRsv3 => exact List.suffix_cons _ _
  | nop | init | load | updb | upd | fin | bufcrc | strcrc => exact List.suffix_rfl

/-- A value returned to the HOST stays on record. -/
theorem reads_suffix_of_step {s t : State} (h : step s = .next t) : s.reads <:+ t.reads := by
  cases stepEffect_of_step h with
  | @command c i hs ts => exact instrEffect_reads_suffix i { s with host := hs, turns := ts }
  | read | wait => exact List.suffix_cons _ _
  | engine => simp
  | illegal | write | reset | rest => exact List.suffix_rfl

theorem host_suffix_of_runFor {s t : State} {k : Nat} (h : runFor k s = .next t) : t.host <:+ s.host :=
  runFor_keeps (P := fun u => u.host <:+ s.host) (fun hu hstep => (host_suffix_of_step hstep).trans hu) List.suffix_rfl h

theorem reads_suffix_of_runFor {s t : State} {k : Nat} (h : runFor k s = .next t) : s.reads <:+ t.reads :=
  runFor_keeps (P := fun u => s.reads <:+ u.reads) (fun hu hstep => hu.trans (reads_suffix_of_step hstep)) List.suffix_rfl h

theorem lastIssued_of_suffix {s t : State} (hsuf : t.host <:+ s.host) (h : lastIssued s = true) : lastIssued t = true := by
  rw [lastIssued, List.all_eq_true] at h ⊢
  exact fun x hx => h x (hsuf.subset hx)

theorem not_command_of_lastIssued {s : State} {c : Transaction} {hs : List HostStep} (h : lastIssued s = true) :
    s.host ≠ .request (.command c) :: hs := by
  intro hhost
  simp [lastIssued, hhost, isTransaction] at h

/-! ### The status read that ends a run (R73, R171) -/

@[simp] theorem statusWord_bit0 (s : State) : (statusWord s)[0] = busy s := by
  simp [statusWord]

@[simp] theorem statusWord_bit1 (s : State) : (statusWord s)[1] = s.illegal := by
  simp [statusWord]

/-- A turn of the polling loop returns STATUS, and is the last one exactly if BUSY = 0 (R73). -/
theorem hostTurn_wait_next {s : State} {hs : List HostStep} (hhost : s.host = .wait :: hs) :
    hostTurn s = .next (returnRead { s with host := if busy s then s.host else hs } 0#2 (statusWord s)) := by
  have hbit : (statusWord s).getLsbD 0 = busy s := statusWord_bit0 s
  rw [hostTurn_wait hhost, hbit, dequeue_of_host hhost]
  cases busy s <;> rfl

theorem step_of_wait {s : State} {hs : List HostStep} (hhost : s.host = .wait :: hs) (hagent : nextAgent s = some .host) :
    step s = .next (returnRead
      { s with
        host := if busy s then s.host else hs
        turns := if engineEnabled s then s.turns.tail else s.turns } 0#2 (statusWord s)) :=
  (step_of_hostTurn hagent).trans (hostTurn_wait_next hhost)

theorem returnedIdle_iff {s t : State} :
    returnedIdle s t = true ↔ ∃ v, t.reads = ⟨0#2, v⟩ :: s.reads ∧ v.getLsbD 0 = false := by
  unfold returnedIdle
  split
  · simp [*]
  · next e es h =>
    obtain ⟨a, v⟩ := e
    simp [h, and_comm, and_assoc]

/-- Of all effects a status read's alone returns STATUS, and it leaves BUSY as it finds it. -/
theorem idle_of_returnedIdle {s t : State} (hlast : lastIssued s = true) (hstep : step s = .next t)
    (h : returnedIdle s t = true) : busy s = false ∧ busy t = false := by
  obtain ⟨v, hreads, hv⟩ := returnedIdle_iff.mp h
  cases stepEffect_of_step hstep with
  | command _ hhost | illegal _ hhost => exact absurd hhost (not_command_of_lastIssued hlast)
  | @read a hs ts hhost =>
    obtain ⟨rfl, rfl⟩ : a = 0#2 ∧ portValue s a = v := by simpa using hreads
    have hidle : busy s = false := (statusWord_bit0 s).symm.trans hv
    exact ⟨hidle, hidle⟩
  | wait hhost =>
    obtain rfl : statusWord s = v := by simpa using hreads
    have hidle : busy s = false := (statusWord_bit0 s).symm.trans hv
    exact ⟨hidle, hidle⟩
  | engine | write | reset | rest => simp at hreads

/-- A run that has ended passed through the status read that ended it. -/
theorem endingRead_of_runEnded {s : State} {k : Nat} (h : runEnded k s = true) :
    ∃ j a b, runFor j s = .next a ∧ step a = .next b ∧ lastIssued a = true ∧ returnedIdle a b = true ∧
      ∀ t, runFor k s = .next t → ∃ i, runFor i b = .next t := by
  induction k generalizing s with
  | zero => simp at h
  | succ k ih =>
    cases hstep : step s with
    | next m =>
      rw [runEnded_succ_of_step hstep, Bool.or_eq_true, Bool.and_eq_true] at h
      rw [runFor_succ_of_step hstep]
      obtain ⟨hlast, hread⟩ | h := h
      · exact ⟨0, s, m, rfl, hstep, hlast, hread, fun t ht => ⟨k, ht⟩⟩
      · obtain ⟨j, a, b, hrun, hab, hlast, hread, hrest⟩ := ih h
        exact ⟨j + 1, a, b, (runFor_succ_of_step hstep j).trans hrun, hab, hlast, hread, hrest⟩
    | fault | refused => simp [runEnded, hstep] at h

theorem lastIssued_of_runEnded {s t : State} {k : Nat} (h : runFor k s = .next t) (hend : runEnded k s = true) :
    lastIssued t = true := by
  obtain ⟨j, a, b, -, hab, hlast, -, hrest⟩ := endingRead_of_runEnded hend
  obtain ⟨i, ht⟩ := hrest t h
  exact lastIssued_of_suffix ((host_suffix_of_runFor ht).trans (host_suffix_of_step hab)) hlast

/-- The record of a run that has ended holds the status read that ended it. -/
theorem idleRead_of_runEnded {s t : State} {k : Nat} (h : runFor k s = .next t) (hend : runEnded k s = true) :
    ∃ es, t.reads = es ++ s.reads ∧ ∃ e ∈ es, e.raddr = 0#2 ∧ e.data.getLsbD 0 = false := by
  obtain ⟨j, a, b, hrun, -, -, hread, hrest⟩ := endingRead_of_runEnded hend
  obtain ⟨i, ht⟩ := hrest t h
  obtain ⟨v, hreads, hv⟩ := returnedIdle_iff.mp hread
  obtain ⟨before, hbefore⟩ := reads_suffix_of_runFor hrun
  obtain ⟨after, hafter⟩ := reads_suffix_of_runFor ht
  refine ⟨after ++ ⟨0#2, v⟩ :: before, ?_, ⟨0#2, v⟩, by simp, rfl, hv⟩
  rw [← hafter, hreads, ← hbefore, List.append_assoc, List.cons_append]

/-! ### After the end -/

/-- Nothing is left that could change the block's registers: the ENGINE is idle, and no transaction or reset is to come. -/
def Settled (s : State) : Prop := busy s = false ∧ lastIssued s = true ∧ HostStep.reset ∉ s.host

theorem readsReturn_refl (f : Word × Word × Bool) {s t : State} (h : t.reads = s.reads) : readsReturn f s t :=
  ⟨[], h, nofun⟩

theorem readsReturn_trans {f : Word × Word × Bool} {s t u : State} (h : readsReturn f s t) (h' : readsReturn f t u) :
    readsReturn f s u := by
  obtain ⟨es, hes, hf⟩ := h
  obtain ⟨es', hes', hf'⟩ := h'
  exact ⟨es' ++ es, by rw [hes', hes, List.append_assoc],
    fun e he => (List.mem_append.mp he).elim (hf' e) (hf e)⟩

/-- On an idle block the read port returns the final state. -/
theorem readsReturn_of_read {s t : State} {a : BitVec 2} (hidle : busy s = false)
    (h : t.reads = ⟨a, portValue s a⟩ :: s.reads) : readsReturn (finalState s) s t := by
  refine ⟨[⟨a, portValue s a⟩], h, fun e he => ?_⟩
  rw [List.mem_singleton.mp he]
  refine ⟨?_, ?_, ?_⟩
  all_goals rintro rfl
  · simp [portValue, hidle, finalState]
  · rfl
  · rfl

theorem settled_step {s t : State} (hs : Settled s) (hstep : step s = .next t) :
    Settled t ∧ finalState t = finalState s ∧ readsReturn (finalState s) s t := by
  have ⟨hidle, hlast, hreset⟩ := hs
  have hsuf := host_suffix_of_step hstep
  have hhost : lastIssued t = true ∧ HostStep.reset ∉ t.host :=
    ⟨lastIssued_of_suffix hsuf hlast, fun h => hreset (hsuf.subset h)⟩
  cases stepEffect_of_step hstep with
  | command _ h | illegal _ h => exact absurd h (not_command_of_lastIssued hlast)
  | read => exact ⟨⟨hidle, hhost⟩, rfl, readsReturn_of_read hidle rfl⟩
  | wait => exact ⟨⟨hidle, hhost⟩, rfl, readsReturn_of_read (a := 0#2) hidle rfl⟩
  | write | rest => exact ⟨⟨hidle, hhost⟩, rfl, readsReturn_refl _ rfl⟩
  | reset h => simp [h] at hreset
  | engine _ hnext => simp [engineNext_idle hidle] at hnext

theorem settled_runFor {s t : State} {k : Nat} (hs : Settled s) (h : runFor k s = .next t) :
    Settled t ∧ finalState t = finalState s ∧ readsReturn (finalState s) s t := by
  refine runFor_keeps (P := fun u => Settled u ∧ finalState u = finalState s ∧ readsReturn (finalState s) s u) ?_
    ⟨hs, rfl, readsReturn_refl _ rfl⟩ h
  rintro u v ⟨hu, hf, hr⟩ hstep
  obtain ⟨hv, hf', hr'⟩ := settled_step hu hstep
  exact ⟨hv, hf'.trans hf, readsReturn_trans hr (hf ▸ hr')⟩

/-- Without a reset a run that has ended has settled. -/
theorem settled_of_runEnded {s t : State} {k : Nat} (hreset : HostStep.reset ∉ s.host) (h : runFor k s = .next t)
    (hend : runEnded k s = true) : Settled t := by
  obtain ⟨j, a, b, hrun, hab, hlast, hread, hrest⟩ := endingRead_of_runEnded hend
  obtain ⟨i, ht⟩ := hrest t h
  have hsuf := host_suffix_of_step hab
  have hb : Settled b := ⟨(idle_of_returnedIdle hlast hab hread).2, lastIssued_of_suffix hsuf hlast,
    fun hr => hreset ((hsuf.trans (host_suffix_of_runFor hrun)).subset hr)⟩
  exact (settled_runFor hb ht).1

/-! ### A stuck ENGINE (R97) -/

theorem stuck_iff {s : State} : stuck s = true ↔
    s.bitcnt = 0 ∧ (s.seq = .buf ∧ s.rem ≠ 0#32 ∨ s.seq = .str) ∧ fetchAdmitted s = false := by
  cases hw : s.wrap <;> cases hm : memReadable s s.ptr <;> simp [stuck, fetchDue, fetchAdmitted, hw, hm]

theorem busy_of_stuck {s : State} (h : stuck s = true) : busy s = true := by
  obtain ⟨-, ⟨hq, -⟩ | hq, -⟩ := stuck_iff.mp h
  · exact busy_of_seq_ne (by simp [hq])
  · exact busy_of_seq_ne (by simp [hq])

theorem engineNext_of_stuck {s : State} (h : stuck s = true) : engineNext s = none := by
  obtain ⟨hb, ⟨hq, hr⟩ | hq, hadm⟩ := stuck_iff.mp h
  · simp [engineNext, hb, hq, hr, hadm]
  · simp [engineNext, hb, hq, hadm]

/-- Only a reset frees a stuck ENGINE. -/
theorem stuck_step {s t : State} (h : stuck s = true) (hreset : HostStep.reset ∉ s.host) (hstep : step s = .next t) :
    stuck t = true := by
  have hbusy := busy_of_stuck h
  cases stepEffect_of_step hstep with
  | command hidle | illegal hidle => simp [hidle] at hbusy
  | rest _ hidle => simp [hidle] at hbusy
  | read | wait | write => exact h
  | reset hhost => simp [hhost] at hreset
  | engine _ hnext => simp [engineNext_of_stuck h] at hnext

theorem stuck_runFor {s t : State} {k : Nat} (h : stuck s = true) (hreset : HostStep.reset ∉ s.host)
    (hrun : runFor k s = .next t) : stuck t = true := by
  refine (runFor_keeps (P := fun u => stuck u = true ∧ HostStep.reset ∉ u.host) ?_ ⟨h, hreset⟩ hrun).1
  rintro u v ⟨hu, hr⟩ hstep
  exact ⟨stuck_step hu hr hstep, fun hv => hr ((host_suffix_of_step hstep).subset hv)⟩

/-- Without a reset a stuck ENGINE never reads idle. -/
theorem runEnded_of_stuck {s : State} {k : Nat} (h : stuck s = true) (hreset : HostStep.reset ∉ s.host) :
    runEnded k s = false := by
  refine Bool.eq_false_iff.mpr fun hend => ?_
  obtain ⟨j, a, b, hrun, hab, hlast, hread, -⟩ := endingRead_of_runEnded hend
  have hbusy := busy_of_stuck (stuck_runFor h hreset hrun)
  obtain ⟨hidle, -⟩ := idle_of_returnedIdle hlast hab hread
  exact Bool.false_ne_true (hidle.symm.trans hbusy)

/-- Settles O57: a run ends with a status read that finds the ENGINE idle, after which nothing is left that could change a
register; a stuck ENGINE admits no such read. -/
theorem waitEndsWhenIdle : Obligations.WaitEndsWhenIdle := by
  refine ⟨fun s hs hhost hagent => ?_, fun s t k h hend => ⟨lastIssued_of_runEnded h hend, idleRead_of_runEnded h hend⟩,
    fun s t u j k hreset h hend hu => ?_, fun s k => runEnded_of_stuck⟩
  · have hstep := step_of_wait hhost hagent
    refine ⟨_, hstep, rfl, ⟨rfl, rfl, rfl, rfl, rfl, rfl, rfl, rfl, rfl⟩, rfl, fun hb => if_pos hb,
      fun hb => if_neg (Bool.eq_false_iff.mp hb), ?_⟩
    simp [runEnded_succ_of_step hstep, returnedIdle, Bool.and_comm (lastIssued s)]
  · obtain ⟨⟨hidle, -⟩, hfinal, hreturn⟩ := settled_runFor (settled_of_runEnded hreset h hend) hu
    exact ⟨hidle, hfinal, hreturn⟩

end Sys2Proof.Machine

/-! PROOF. The ENGINE and the checksum (40_engine.md R80 to R99): the pure functions, the five micro-steps, runs over the bytes of
a buffer or string, stuck states, and the turn that an enabled ENGINE gets. -/

namespace Sys2Proof.Machine

/-! ### The pure functions (R81 to R88) -/

/-- Every bit of the bit-step at once: the shifted word, XORed with POLY where bit 0 was set. -/
theorem getLsbD_bitStep (a : Word) (i : Nat) :
    (bitStep a).getLsbD i = (a.getLsbD (i + 1) ^^ (a.getLsbD 0 && Config.poly.getLsbD i)) := by
  have hshift : (a >>> 1).getLsbD i = a.getLsbD (i + 1) := by rw [BitVec.getLsbD_ushiftRight, Nat.add_comm]
  unfold bitStep
  split
  · next h => rw [BitVec.getLsbD_xor, hshift, h, Bool.true_and]
  · next h => rw [hshift, Bool.eq_false_iff.mpr h, Bool.false_and, Bool.xor_false]

/-- POLY is the polynomial 0x04C11DB7 with its bits reversed (R80). -/
theorem poly_reflected : ∀ i < 32, Config.poly.getLsbD i = (0x04C11DB7#32).getLsbD (31 - i) := by decide

/-- Settles O42: the bits are those of `getLsbD_bitStep`, with POLY's read from the polynomial's other end. -/
theorem bitStepShiftsAndXors : Obligations.BitStepShiftsAndXors := by
  intro a
  refine ⟨fun h => if_pos h, fun h => if_neg (Bool.eq_false_iff.mp h), ?_, fun i hi => ?_⟩
  · have htop : a.getLsbD 32 = false := BitVec.getLsbD_of_ge a 32 le_rfl
    have hpoly : Config.poly.getLsbD 31 = true := by decide
    rw [getLsbD_bitStep, htop, hpoly, Bool.and_true, Bool.false_xor]
  · rw [getLsbD_bitStep, poly_reflected i (by omega)]

theorem update_append (bs cs : List Byte) (a : Word) : update (bs ++ cs) a = update cs (update bs a) := by
  induction bs generalizing a with
  | nil => rfl
  | cons b bs ih => exact ih (byteStep a b)

theorem update_flatten (chunks : List (List Byte)) (a : Word) :
    update chunks.flatten a = chunks.foldl (fun acc c => update c acc) a := by
  induction chunks generalizing a with
  | nil => rfl
  | cons c cs ih => rw [List.flatten_cons, update_append, ih, List.foldl_cons]

/-- Settles O43: a chunk fed leaves the accumulator that the next one starts from. -/
theorem updateIsChunkingInvariant : Obligations.UpdateIsChunkingInvariant :=
  ⟨update_append, update_flatten, fun chunks => by rw [update_flatten]⟩

/-- Settles O44: Finalize is the complement, and the complement of the seed is 0. -/
theorem finalizeAndEmptyUpdate : Obligations.FinalizeAndEmptyUpdate :=
  ⟨fun _ => rfl, fun _ => BitVec.not_not, by decide⟩

theorem finalize_eq_xor (a : Word) : finalize a = a ^^^ 0xFFFFFFFF#32 :=
  (BitVec.xor_allOnes (x := a)).symm

/-! ### Which micro-step is enabled (R89) -/

theorem engineNext_eq_shift {s : State} : engineNext s = some .shift ↔ s.bitcnt ≠ 0 := by
  constructor
  · intro h
    simpa using engineNext_cases h
  · intro hb
    simp [engineNext, hb]

theorem engineNext_eq_endBuf {s : State} : engineNext s = some .endBuf ↔ s.bitcnt = 0 ∧ s.seq = .buf ∧ s.rem = 0#32 := by
  constructor
  · intro h
    simpa using engineNext_cases h
  · rintro ⟨hb, hq, hr⟩
    simp [engineNext, hb, hq, hr]

/-- The conditions of R90 to R94, one by one, are those of R89's table. -/
theorem enabled_iff {s : State} {e : EngineStep} : enabled s e = true ↔ engineNext s = some e := by
  cases e with
  | shift => simp [engineNext_eq_shift, enabled]
  | fetchBuf => simp [engineNext_eq_fetchBuf, fetchAdmitted, enabled, and_assoc]
  | endBuf => simp [engineNext_eq_endBuf, enabled, and_assoc]
  | fetchStr => simp [engineNext_eq_fetchStr, fetchAdmitted, enabled, and_assoc]
  | endStr => simp [engineNext_eq_endStr, fetchAdmitted, enabled, and_assoc]

theorem enabled_eq_false_of_engineNext {s : State} (h : engineNext s = none) (e : EngineStep) : enabled s e = false := by
  rw [Bool.eq_false_iff, ne_eq, enabled_iff, h]
  nofun

theorem engineNext_of_buffer {s : State} (hb : s.bitcnt = 0) (hq : s.seq = .buf) (hr : s.rem ≠ 0#32) :
    engineNext s = if fetchAdmitted s then some .fetchBuf else none := by
  simp [engineNext, hb, hq, hr]

theorem engineNext_of_string {s : State} (hb : s.bitcnt = 0) (hq : s.seq = .str) :
    engineNext s = if fetchAdmitted s then some (if readMem s s.ptr = 0#8 then .endStr else .fetchStr) else none := by
  simp only [engineNext, hb, hq, ne_eq, not_true_eq_false, if_false, apply_ite some]

/-- Settles O33: enabled is what R89's table selects, and each row of the table selects one micro-step or none. -/
theorem engineStepsAreExclusive : Obligations.EngineStepsAreExclusive := by
  intro s
  refine ⟨fun _ => enabled_iff, fun hb e => ?_, fun hb hq => ⟨fun hr e => ?_, fun hr e => ?_⟩, fun hb hq e => ?_,
    fun hb hq => ?_⟩
  · rw [enabled_iff, engineNext_eq_shift.mpr hb, Option.some_inj, eq_comm]
  · rw [enabled_iff, engineNext_of_buffer hb hq hr, ← fetchAdmitted_eq_true, Option.ite_none_right_eq_some,
      Option.some_inj, and_comm, @eq_comm _ e]
  · rw [enabled_iff, engineNext_eq_endBuf.mpr ⟨hb, hq, hr⟩, Option.some_inj, eq_comm]
  · rw [enabled_iff, engineNext_of_string hb hq, ← fetchAdmitted_eq_true, Option.ite_none_right_eq_some,
      Option.some_inj, and_comm, @eq_comm _ e]
  · exact enabled_eq_false_of_engineNext (engineNext_idle (busy_eq_false.mpr ⟨hb, hq⟩))

/-! ### The five micro-steps (R90 to R96) -/

/-- The increment of R96 written out, from WRAP = 0. -/
theorem advancePtr_eq {s : State} (hw : s.wrap = false) :
    advancePtr s = { s with
      ptr := if s.ptr = 0xFFFFFFFF#32 then 0x00000000#32 else s.ptr + 1#32
      wrap := decide (s.ptr = 0xFFFFFFFF#32) } := by
  unfold advancePtr inc
  split <;> simp [*]

/-- `Complete()` of R95 written out, with `not ACC` as an XOR. -/
theorem complete_eq (s : State) :
    complete s = { s with
      result := if s.finq = true then s.acc ^^^ 0xFFFFFFFF#32 else s.result
      seq := .none
      finq := false
      wrap := false } := by
  rw [complete, finalize_eq_xor]

/-- Settles O35: the fetch is the ENGINE's next micro-step, and its increment starts from WRAP = 0. -/
theorem fetchBufStep : Obligations.FetchBufStep := by
  intro s hagent hb hq hr hw hread
  have hnext := engineNext_eq_fetchBuf.mpr ⟨hb, hq, hr, fetchAdmitted_eq_true.mpr ⟨hw, hread⟩⟩
  exact (step_of_engine hagent hnext).trans (congrArg _ (advancePtr_eq hw))

/-- Settles O37: as for a buffer, with REM left alone. -/
theorem fetchStrStep : Obligations.FetchStrStep := by
  intro s hagent hb hq hw hread hne
  have hnext := engineNext_eq_fetchStr.mpr ⟨hb, hq, fetchAdmitted_eq_true.mpr ⟨hw, hread⟩, hne⟩
  exact (step_of_engine hagent hnext).trans (congrArg _ (advancePtr_eq hw))

/-- Settles O36: the micro-step is `Complete()` alone, and BITCNT is 0 already. -/
theorem endBufStep : Obligations.EndBufStep := by
  intro s hagent hb hq hr
  have hnext := engineNext_eq_endBuf.mpr ⟨hb, hq, hr⟩
  exact ⟨_, step_of_engine hagent hnext, busy_eq_false.mpr ⟨hb, rfl⟩, complete_eq _⟩

/-- Settles O38: the micro-step is a read of the terminator and `Complete()`. -/
theorem endStrStep : Obligations.EndStrStep := by
  intro s hagent hb hq hw hread hz
  have hnext := engineNext_eq_endStr.mpr ⟨hb, hq, fetchAdmitted_eq_true.mpr ⟨hw, hread⟩, hz⟩
  exact ⟨_, step_of_engine hagent hnext, busy_eq_false.mpr ⟨hb, rfl⟩, complete_eq _⟩

/-! ### The ENGINE alone: the shifts after a byte XOR -/

/-- The HOST has nothing to take but a transaction, so it has no step to take while BUSY = 1 (R61). -/
def HostHeld (s : State) : Prop := s.host = [] ∨ ∃ c hs, s.host = .request (.command c) :: hs

theorem hostEnabled_of_held {s : State} (hheld : HostHeld s) (hbusy : busy s = true) : hostEnabled s = false := by
  obtain hhost | ⟨c, hs, hhost⟩ := hheld
  · simp [hostEnabled, hhost]
  · rw [hostEnabled_of_command hhost, hbusy, Bool.not_true]

theorem busy_of_engineNext {s : State} {e : EngineStep} (h : engineNext s = some e) : busy s = true := by
  refine Bool.eq_true_of_not_eq_false fun hidle => ?_
  simp [engineNext_idle hidle] at h

theorem nextAgent_engine_of_not_hostEnabled {s : State} (he : engineEnabled s = true) (hh : hostEnabled s = false) :
    nextAgent s = some .engine := by
  simp [nextAgent, contended, he, hh]

/-- Beside a HOST that is held, the ENGINE's next micro-step is the step, and no choice of turn is used up. -/
theorem step_of_held {s : State} {e : EngineStep} (hheld : HostHeld s) (hnext : engineNext s = some e) :
    step s = .next (engineEffect s e) := by
  have hh := hostEnabled_of_held hheld (busy_of_engineNext hnext)
  rw [step_of_engine (nextAgent_engine_of_not_hostEnabled (engineEnabled_of_engineNext hnext) hh) hnext, hh]
  rfl

/-- BITCNT counts the shifts still to come: after that many it is 0 (R90). -/
theorem runFor_shifts {s : State} {n : Nat} (hheld : HostHeld s) (hb : s.bitcnt.val = n) :
    runFor n s = .next { s with acc := bitSteps n s.acc, bitcnt := 0 } := by
  induction n generalizing s with
  | zero =>
    have hzero : s.bitcnt = 0 := Fin.ext hb
    simp only [runFor_zero, bitSteps, ← hzero]
  | succ n ih =>
    have hne : s.bitcnt ≠ 0 := fun h => by simp [h] at hb
    have hleft : (s.bitcnt - 1).val = n := by rw [Fin.val_sub_one_of_ne_zero hne, hb, Nat.add_sub_cancel]
    rw [runFor_succ_of_step (step_of_held hheld (engineNext_eq_shift.mpr hne))]
    exact ih (s := engineShift s) hheld hleft

/-- Settles O34: the step is the ENGINE's next micro-step, and eight shifts after a byte XOR are ByteStep's definition. -/
theorem shiftStep : Obligations.ShiftStep := by
  refine ⟨fun s hagent hne => ⟨step_of_engine hagent (engineNext_eq_shift.mpr hne), ?_⟩, fun s a b hhost hb hacc => ?_⟩
  · have hpos : s.bitcnt.val ≠ 0 := fun h => hne (Fin.ext h)
    rw [Fin.val_sub_one_of_ne_zero hne]
    omega
  · have hrun := runFor_shifts (n := 8) (.inl hhost) (by rw [hb]; rfl)
    rw [hacc] at hrun
    exact hrun

/-! ### The addresses of a buffer (R12, R59) -/

theorem addrAt_zero (p : Word) : addrAt p 0 = p := BitVec.add_zero p

theorem addrAt_addrAt (p : Word) (m i : Nat) : addrAt (addrAt p m) i = addrAt p (m + i) := by
  simp only [addrAt, BitVec.ofNat_add, BitVec.add_assoc]

theorem toNat_addrAt {p : Word} {i : Nat} (h : p.toNat + i < 2 ^ 32) : (addrAt p i).toNat = p.toNat + i := by
  rw [addrAt, BitVec.toNat_add, BitVec.toNat_ofNat, Nat.add_mod_mod, Nat.mod_eq_of_lt h]

theorem addrsFrom_one (p : Word) : addrsFrom p 1 = [p] := congrArg ([·]) (addrAt_zero p)

theorem memBytes_one (s : State) (p : Word) : memBytes s p 1 = [readMem s p] := by
  rw [memBytes, addrsFrom_one]
  rfl

theorem addrsFrom_add (p : Word) (m k : Nat) : addrsFrom p (m + k) = addrsFrom p m ++ addrsFrom (addrAt p m) k := by
  simp only [addrsFrom, List.range_add, List.map_append, List.map_map]
  congr 2
  exact funext fun i => (addrAt_addrAt p m i).symm

theorem memBytes_add (s : State) (p : Word) (m k : Nat) :
    memBytes s p (m + k) = memBytes s p m ++ memBytes s (addrAt p m) k := by
  simp only [memBytes, addrsFrom_add, List.map_append]

/-! ### A run over the bytes of a buffer or string (R91, R93) -/

/-- The sequencer has fetched and fed m bytes from PTR, from WRAP = 0, with no shift left to do. REM counts a buffer's bytes. -/
def afterBytes (s : State) (m : Nat) : State :=
  { s with
    acc := update (memBytes s s.ptr m) s.acc
    bitcnt := 0
    ptr := addrAt s.ptr m
    rem := if s.seq = .buf then s.rem - BitVec.ofNat 32 m else s.rem
    wrap := decide (s.ptr.toNat + m = 2 ^ 32)
    fetches := (addrsFrom s.ptr m).reverse ++ s.fetches }

/-- Byte number i from PTR is one that the sequencer feeds: below a buffer's REM, or not a string's terminator. -/
def byteDue (s : State) (i : Nat) : Prop :=
  s.seq = .buf ∧ i < s.rem.toNat ∨ s.seq = .str ∧ readMem s (addrAt s.ptr i) ≠ 0#8

theorem afterBytes_rem_of_buffer {s : State} {m : Nat} (hq : s.seq = .buf) :
    (afterBytes s m).rem = s.rem - BitVec.ofNat 32 m :=
  if_pos hq

theorem afterBytes_zero {s : State} (hb : s.bitcnt = 0) (hw : s.wrap = false) : afterBytes s 0 = s := by
  have hwrap : decide (s.ptr.toNat + 0 = 2 ^ 32) = s.wrap := (decide_eq_false s.ptr.isLt.ne).trans hw.symm
  rw [afterBytes, hwrap, ← hb]
  simp [memBytes, addrsFrom, update, addrAt_zero]

/-- The increment of R96 from WRAP = 0, in the buffer's terms. -/
theorem inc_eq_addrAt {p : Word} {w : Bool} (hw : w = false) : inc p w = (addrAt p 1, decide (p.toNat + 1 = 2 ^ 32)) := by
  have htop : (p == 0xFFFFFFFF#32) = decide (p.toNat + 1 = 2 ^ 32) := by
    rw [Bool.beq_eq_decide_eq, decide_eq_decide]
    bv_omega
  rw [inc_eq, hw, Bool.false_or, htop]
  rfl

/-- One byte more, where the byte before it does not lie at the top of the address space. -/
theorem afterBytes_succ {s : State} {m : Nat} (h : s.ptr.toNat + m < 2 ^ 32) :
    afterBytes (afterBytes s m) 1 = afterBytes s (m + 1) := by
  have hbytes : memBytes (afterBytes s m) = memBytes s := rfl
  rw [afterBytes, hbytes]
  simp only [afterBytes, toNat_addrAt h, addrAt_addrAt, memBytes_add s s.ptr m, update_append, addrsFrom_add s.ptr m,
    List.reverse_append, List.append_assoc, Nat.add_assoc]
  congr 1
  split
  · bv_omega
  · rfl

theorem fetchAdmitted_afterBytes (s : State) (m : Nat) :
    fetchAdmitted (afterBytes s m) = (!decide (s.ptr.toNat + m = 2 ^ 32) && memReadable s (addrAt s.ptr m)) := rfl

theorem byteDue_afterBytes {s : State} {m : Nat} (hdue : byteDue s m) : byteDue (afterBytes s m) 0 := by
  obtain ⟨hq, hlt⟩ | ⟨hq, hne⟩ := hdue
  · refine .inl ⟨hq, ?_⟩
    rw [afterBytes_rem_of_buffer hq]
    bv_omega
  · refine .inr ⟨hq, ?_⟩
    rw [addrAt_zero]
    exact hne

/-- A byte that is due and admitted is fetched; the two fetches differ in REM alone (R91, R93). -/
theorem fetch_of_byteDue {s : State} (hb : s.bitcnt = 0) (hadm : fetchAdmitted s = true) (hdue : byteDue s 0) :
    ∃ e, engineNext s = some e ∧ engineEffect s e = setRem (engineFetchStr s) (afterBytes s 1).rem := by
  obtain ⟨hq, hlt⟩ | ⟨hq, hne⟩ := hdue
  · have hr : s.rem ≠ 0#32 := fun h => by simp [h] at hlt
    exact ⟨.fetchBuf, engineNext_eq_fetchBuf.mpr ⟨hb, hq, hr, hadm⟩, by rw [afterBytes_rem_of_buffer hq]; rfl⟩
  · have hrem : (afterBytes s 1).rem = s.rem := if_neg (by simp [hq])
    rw [addrAt_zero] at hne
    exact ⟨.fetchStr, engineNext_eq_fetchStr.mpr ⟨hb, hq, hadm, hne⟩, by rw [hrem]; rfl⟩

/-- A byte takes nine ENGINE steps, the fetch and its eight shifts (R98). -/
theorem runFor_byte {s : State} (hheld : HostHeld s) (hb : s.bitcnt = 0) (hadm : fetchAdmitted s = true)
    (hdue : byteDue s 0) : runFor 9 s = .next (afterBytes s 1) := by
  obtain ⟨e, hnext, heffect⟩ := fetch_of_byteDue hb hadm hdue
  have hinc := inc_eq_addrAt (p := s.ptr) (wrap_of_fetchAdmitted hadm)
  rw [runFor_succ_of_step (step_of_held hheld hnext), heffect,
    runFor_shifts (s := setRem (engineFetchStr s) (afterBytes s 1).rem) (n := 8) hheld rfl]
  simp only [afterBytes, setRem, engineFetchStr, advancePtr, feedByte, recordFetch, hinc, memBytes_one, addrsFrom_one]
  rfl

/-- m bytes that may be read and are due take nine ENGINE steps each. -/
theorem runFor_bytes {s : State} {m : Nat} (hheld : HostHeld s) (hb : s.bitcnt = 0) (hw : s.wrap = false)
    (hvalid : validBuffer s s.ptr m) (hdue : ∀ i < m, byteDue s i) : runFor (9 * m) s = .next (afterBytes s m) := by
  induction m with
  | zero => rw [Nat.mul_zero, runFor_zero, afterBytes_zero hb hw]
  | succ m ih =>
    have hrun := ih (fun i hi => hvalid i (by omega)) (fun i hi => hdue i (by omega))
    obtain ⟨hread, hlt⟩ := hvalid m (by omega)
    have hadm : fetchAdmitted (afterBytes s m) = true := by
      rw [fetchAdmitted_afterBytes, hread, decide_eq_false hlt.ne]
      rfl
    rw [Nat.mul_succ, runFor_add hrun, ← afterBytes_succ hlt]
    exact runFor_byte hheld rfl hadm (byteDue_afterBytes (hdue m (by omega)))

/-! ### Stuck states (R97) -/

/-- A stuck ENGINE beside a HOST that is held: no step. -/
theorem step_of_stuck {s : State} (hstuck : stuck s = true) (hheld : HostHeld s) : step s = .fault .stuck := by
  have hbusy := busy_of_stuck hstuck
  simp [step, advance, nextAgent, contended, hostEnabled_of_held hheld hbusy, engineEnabled, engineNext_of_stuck hstuck, hbusy]

/-- A busy block with no micro-step: no shift is left to do, and the fetch that is due is not admitted. -/
theorem stuck_of_engineNext_none {s : State} (hbusy : busy s = true) (hnone : engineNext s = none) : stuck s = true := by
  have hb : s.bitcnt = 0 := by
    by_contra hne
    simp [engineNext_eq_shift.mpr hne] at hnone
  cases hq : s.seq with
  | none => simp [busy, hb, hq] at hbusy
  | buf =>
    have hr : s.rem ≠ 0#32 := fun hr => by simp [engineNext_eq_endBuf.mpr ⟨hb, hq, hr⟩] at hnone
    rw [engineNext_of_buffer hb hq hr] at hnone
    exact stuck_iff.mpr ⟨hb, .inl ⟨hq, hr⟩, by simpa using hnone⟩
  | str =>
    rw [engineNext_of_string hb hq] at hnone
    exact stuck_iff.mpr ⟨hb, .inr hq, by simpa using hnone⟩

/-- Every step but a reset leaves a stuck block as it is, and reads nothing. -/
theorem stuck_step_frame {s t : State} (hstuck : stuck s = true) (hstep : step s = .next t) :
    (∃ hs, s.host = .reset :: hs) ∨ (sameBlock s t ∧ t.fetches = s.fetches) := by
  have hbusy := busy_of_stuck hstuck
  cases stepEffect_of_step hstep with
  | command hidle | illegal hidle => simp [hidle] at hbusy
  | rest _ hidle => simp [hidle] at hbusy
  | engine _ hnext => simp [engineNext_of_stuck hstuck] at hnext
  | reset hhost => exact .inl ⟨_, hhost⟩
  | read | wait | write => exact .inr ⟨⟨rfl, rfl, rfl, rfl, rfl, rfl, rfl, rfl, rfl⟩, rfl⟩

/-- Settles O39: what R97 says of a stuck state, and that no other busy state is without a micro-step. -/
theorem stuckStatesHang : Obligations.StuckStatesHang := by
  refine ⟨fun s hb hdue hbad => ?_, fun s hbusy hnone => stuck_of_engineNext_none hbusy ?_⟩
  · have hadm : fetchAdmitted s = false := by simpa [fetchAdmitted, imp_iff_not_or] using hbad
    have hstuck : stuck s = true := stuck_iff.mpr ⟨hb, hdue, hadm⟩
    refine ⟨enabled_eq_false_of_engineNext (engineNext_of_stuck hstuck), busy_of_stuck hstuck,
      fun t => stuck_step_frame hstuck, fun hheld t => ?_⟩
    rw [step_of_stuck hstuck hheld]
    nofun
  · exact Option.eq_none_iff_forall_ne_some.mpr fun e he => Bool.false_ne_true ((hnone e).symm.trans (enabled_iff.mpr he))

/-- After the last byte before a bad address a further fetch is due and not admitted. -/
theorem stuck_afterBytes {s : State} {m : Nat} (hbad : badAfter s s.ptr m)
    (hdue : s.seq = .buf ∧ m < s.rem.toNat ∨ s.seq = .str) : stuck (afterBytes s m) = true := by
  obtain ⟨-, hend⟩ := hbad
  have hadm : fetchAdmitted (afterBytes s m) = false := by
    rw [fetchAdmitted_afterBytes]
    obtain htop | hread := hend
    · simp [htop]
    · simp [hread]
  refine stuck_iff.mpr ⟨rfl, hdue.imp_left fun ⟨hq, hlt⟩ => ⟨hq, ?_⟩, hadm⟩
  rw [afterBytes_rem_of_buffer hq]
  bv_omega

/-- Up to a bad address the bytes that are due are fed, nine steps each, and there the ENGINE is stuck. -/
theorem hangs_of_badAfter {s : State} {m : Nat} (hheld : HostHeld s) (hb : s.bitcnt = 0) (hw : s.wrap = false)
    (hbad : badAfter s s.ptr m) (hbytes : ∀ i < m, byteDue s i) (hdue : s.seq = .buf ∧ m < s.rem.toNat ∨ s.seq = .str) :
    runFor (9 * m) s = .next (afterBytes s m) ∧ stuck (afterBytes s m) = true ∧ step (afterBytes s m) = .fault .stuck := by
  have hstuck := stuck_afterBytes hbad hdue
  obtain ⟨hvalid, -⟩ := hbad
  exact ⟨runFor_bytes hheld hb hw hvalid hbytes, hstuck, step_of_stuck hstuck hheld⟩

/-- UPD and BUFCRC at accept differ in the accumulator and in FINQ alone (R111, R125). -/
theorem instrEffect_of_buffer {i : Instr} {p n : Word} (hi : i ∈ [Instr.upd p n, Instr.bufcrc p n]) (s : State) :
    ∃ a fin, instrEffect i s = setRem (startSequencer (setAcc s a) .buf p fin) n := by
  obtain rfl | rfl : i = .upd p n ∨ i = .bufcrc p n := by simpa using hi
  · exact ⟨s.acc, false, rfl⟩
  · exact ⟨Config.initial, true, rfl⟩

/-- Settles O40: REM has m < n bytes due before the bad address, and one more at it. -/
theorem badBufferHangs : Obligations.BadBufferHangs := by
  intro s p n m hidle hhost hm hbad i hi
  obtain ⟨hb, -⟩ := busy_eq_false.mp hidle
  obtain ⟨a, fin, heffect⟩ := instrEffect_of_buffer hi s
  obtain ⟨hrun, hstuck, hstop⟩ := hangs_of_badAfter (s := setRem (startSequencer (setAcc s a) .buf p fin) n)
    (.inl hhost) hb rfl hbad (fun j hj => .inl ⟨rfl, hj.trans hm⟩) (.inl ⟨rfl, hm⟩)
  exact ⟨_, _, (exec_idle i hidle).trans (congrArg _ heffect), hrun, hstuck, hstop, rfl, rfl, rfl, rfl, rfl, rfl⟩

/-- Settles O41: the bytes before the bad address are due because none of them is the terminator. -/
theorem unterminatedStringHangs : Obligations.UnterminatedStringHangs := by
  intro s p m hidle hhost hbad hne
  obtain ⟨hb, -⟩ := busy_eq_false.mp hidle
  obtain ⟨hrun, hstuck, hstop⟩ := hangs_of_badAfter (s := instrEffect (.strcrc p) s)
    (.inl hhost) hb rfl hbad (fun i hi => .inr ⟨rfl, hne i hi⟩) (.inr rfl)
  exact ⟨_, _, exec_idle (.strcrc p) hidle, hrun, hstuck, hstop, rfl, rfl, rfl, rfl, rfl⟩

/-! ### Fairness (R99) -/

/-- The ENGINE can move exactly where it is busy and not stuck. -/
theorem engineEnabled_iff {s : State} : engineEnabled s = true ↔ busy s = true ∧ stuck s = false := by
  constructor
  · intro h
    obtain ⟨e, hnext⟩ := Option.isSome_iff_exists.mp h
    refine ⟨busy_of_engineNext hnext, Bool.eq_false_iff.mpr fun hstuck => ?_⟩
    simp [engineNext_of_stuck hstuck] at hnext
  · rintro ⟨hbusy, hfree⟩
    by_contra hnone
    have hnext : engineNext s = none := by simpa [engineEnabled] using hnone
    simp [stuck_of_engineNext_none hbusy hnext] at hfree

/-- Beside an ENGINE that can move, a HOST step takes no choice of turn of its own, and leaves the ENGINE able to move but for a
reset: whether it can does not depend on the bytes of BM. -/
theorem hostTurn_keeps_engineEnabled {s : State} (hh : hostEnabled s = true) (he : engineEnabled s = true) :
    ∃ t, hostTurn s = .next t ∧ t.turns = s.turns ∧ (engineEnabled t = true ∨ busy t = false) := by
  have hfree := engineEnabled_iff.mp he
  cases hhost : s.host with
  | nil => simp [hostEnabled, hhost] at hh
  | cons x hs =>
    cases x with
    | request r =>
      cases r with
      | command c => simp [idle_of_hostEnabled_command hh hhost] at hfree
      | read a => exact ⟨_, (hostTurn_request hhost).trans (runRequest_read a _), rfl, .inl (engineEnabled_iff.mpr hfree)⟩
    | wait => exact ⟨_, hostTurn_wait_next hhost, rfl, .inl (engineEnabled_iff.mpr hfree)⟩
    | write a b => exact ⟨_, hostTurn_write hhost, rfl, .inl (engineEnabled_iff.mpr hfree)⟩
    | reset => exact ⟨_, hostTurn_reset hhost, rfl, .inr rfl⟩

theorem step_of_hostTurn_cons {s : State} {ts : List Agent} (hh : hostEnabled s = true) (he : engineEnabled s = true)
    (hts : s.turns = .host :: ts) : step s = hostTurn { s with turns := ts } := by
  rw [step_of_hostTurn (nextAgent_host_of_turns hh hts), he, hts]
  rfl

theorem nextAgent_engine_of_no_turns {s : State} (he : engineEnabled s = true) (hts : s.turns = []) :
    nextAgent s = some .engine := by
  cases hh : hostEnabled s <;> simp [nextAgent, contended, hh, he, hts]

/-- Settles O58: each choice that is the HOST's is used up by one HOST step, and without a choice left the ENGINE goes first. -/
theorem engineIsNotStarved : Obligations.EngineIsNotStarved := by
  intro s he
  induction hts : s.turns generalizing s with
  | nil => exact ⟨0, le_rfl, s, rfl, .inl (nextAgent_engine_of_no_turns he hts)⟩
  | cons a ts ih =>
    by_cases hh : hostEnabled s = true
    · cases a with
      | engine => exact ⟨0, Nat.zero_le _, s, rfl, .inl (nextAgent_engine_of_turns he hts)⟩
      | host =>
        obtain ⟨t, hstep, htt, ht⟩ := hostTurn_keeps_engineEnabled (s := { s with turns := ts }) hh he
        rw [← step_of_hostTurn_cons hh he hts] at hstep
        obtain ht | ht := ht
        · obtain ⟨k, hk, u, hrun, hu⟩ := ih t ht htt
          exact ⟨k + 1, Nat.succ_le_succ hk, u, (runFor_succ_of_step hstep k).trans hrun, hu⟩
        · exact ⟨1, Nat.succ_le_succ (Nat.zero_le _), t, runFor_succ_of_step hstep 0, .inr ht⟩
    · exact ⟨0, Nat.zero_le _, s, rfl, .inl (nextAgent_engine_of_not_hostEnabled he (Bool.eq_false_iff.mpr hh))⟩

end Sys2Proof.Machine

/-! PROOF. The control commands and the four reads (41_control.md R100 to R106). -/

namespace Sys2Proof.Machine

/-! ### The reads (R103 to R106) -/

/-- A read waits for nothing (R71). -/
theorem exec_of_not_command {i : Instr} (hi : isCommand i = false) (s : State) : exec i s = .next (instrEffect i s) := by
  rw [exec_eq, hi]
  rfl

/-- STATUS is 0 above its two flags (R25, R103). -/
theorem statusWord_high_bits (s : State) {i : Nat} (hi : 2 ≤ i) : (statusWord s).getLsbD i = false := by
  have hillegal : i - 1 ≠ 0 := by omega
  have hbusy : i ≠ 0 := by omega
  simp [statusWord, BitVec.getLsbD_ofBool, hillegal, hbusy]

/-- Settles O24: each read answers what R103 to R106 say, STATUS its two flags and zeros. -/
theorem readsAnswerInEveryState : Obligations.ReadsAnswerInEveryState := by
  intro s
  exact ⟨⟨statusWord s, exec_of_not_command rfl s, statusWord_bit0 s, statusWord_bit1 s, fun _ => statusWord_high_bits s⟩,
    exec_of_not_command rfl s, exec_of_not_command rfl s, exec_of_not_command rfl s⟩

/-! ### NOP, INIT and LOAD (R100 to R102) -/

/-- Settles O12: NOP's word is 0, and of the words with OPC = 0 every other one has a non-zero RSV or IMM8 (R68). -/
theorem nopChangesNothing : Obligations.NopChangesNothing := by
  intro s hidle
  refine ⟨exec_idle .nop hidle, fun a0 a1 => decode_of_onRow (.nop rfl), fun w a0 a1 hw hopc => ?_⟩
  have hne : w.toNat ≠ 0 := fun h => hw (BitVec.eq_of_toNat_eq h)
  have hfields : w.toNat / 2 ^ 8 % 2 ^ 16 ≠ 0 ∨ (w.toNat / 2 ^ 24 ≠ 0x03 ∧ w.toNat % 2 ^ 8 ≠ 0) := by omega
  exact decode_error_of_fields (.inr hfields)

/-- Settles O13: INIT and `load 0xFFFFFFFF` have one effect, ACC set to INITIAL. -/
theorem initSeedsAcc : Obligations.InitSeedsAcc := by
  intro s hidle
  have hinit : exec .init s = .next { s with acc := 0xFFFFFFFF#32 } := exec_idle .init hidle
  have hload : exec (.load 0xFFFFFFFF#32) s = .next { s with acc := 0xFFFFFFFF#32 } := exec_idle (.load _) hidle
  exact ⟨hinit, hinit.trans hload.symm, fun a0 a1 => decode_of_onRow (.init rfl)⟩

/-- Settles O14: LOAD takes its operand from ARG0, and the read of ACC needs no idle block. -/
theorem loadCopiesArg0 : Obligations.LoadCopiesArg0 := by
  intro s v hidle
  exact ⟨exec_idle (.load v) hidle, exec_of_not_command rfl _, fun a1 => decode_of_onRow (c := ⟨_, v, a1⟩) (.load rfl)⟩

end Sys2Proof.Machine

/-! PROOF. The update commands UPDB and UPD (42_update.md R110 to R112): their accept steps, the runs that follow, and a chain of
chunks. -/

namespace Sys2Proof.Machine

/-! ### The accept steps (R110, R111) -/

/-- Settles O29: on a busy block nothing changes, and on an idle one only the registers that start the sequencer, and ACC. -/
theorem frameSequencerCommands : Obligations.FrameSequencerCommands := by
  rintro s t i ⟨p, n, hi⟩ h
  obtain rfl | rfl := exec_next h
  · simp [sameMemory, sameSurroundings]
  · obtain rfl | rfl | rfl := hi <;> simp [instrEffect, sameMemory, sameSurroundings, readMem]

/-- Settles O17: the sequencer starts with no shift to do, so REM alone picks the row of R89's table. -/
theorem updStartsSequencer : Obligations.UpdStartsSequencer := by
  intro s p n hidle
  obtain ⟨hb, -⟩ := busy_eq_false.mp hidle
  refine ⟨_, exec_idle (.upd p n) hidle, rfl, busy_of_seq_ne nofun, fun e he => ?_⟩
  obtain ⟨-, -, hbuf, -⟩ := engineStepsAreExclusive (instrEffect (.upd p n) s)
  obtain ⟨hmore, hdone⟩ := hbuf hb rfl
  split
  · exact (hdone ‹_› e).mp he
  · obtain ⟨hfetch, -⟩ := (hmore ‹_› e).mp he
    exact hfetch

/-! ### The run after UPDB (R90, R98, R110) -/

/-- Before each of the shifts that BITCNT counts, a shift is the next micro-step. -/
theorem shift_next_within_bitcnt {s : State} {j : Nat} (hheld : HostHeld s) (hj : j < s.bitcnt.val) :
    ∃ v, runFor j s = .next v ∧ engineNext v = some .shift := by
  induction j generalizing s with
  | zero => exact ⟨s, rfl, engineNext_eq_shift.mpr (Fin.pos_iff_ne_zero.mp hj)⟩
  | succ j ih =>
    have hne : s.bitcnt ≠ 0 := Fin.pos_iff_ne_zero.mp (Nat.zero_lt_of_lt hj)
    have hleft : j < (engineShift s).bitcnt.val := by
      rw [engineShift_bitcnt, Fin.val_sub_one_of_ne_zero hne]
      omega
    obtain ⟨v, hrun, hv⟩ := ih (s := engineShift s) hheld hleft
    exact ⟨v, (runFor_succ_of_step (step_of_held hheld (engineNext_eq_shift.mpr hne)) j).trans hrun, hv⟩

/-- A byte XOR and its eight shifts are ByteStep (R82). -/
theorem runFor_feedByte {s : State} (hheld : HostHeld s) (hb : s.bitcnt = 0) (b : Byte) :
    runFor 8 (feedByte s b) = .next (setAcc s (byteStep s.acc b)) := by
  rw [runFor_shifts (s := feedByte s b) (n := 8) hheld rfl, ← hb]
  rfl

/-- Settles O15: BITCNT = 8 makes eight shifts due, and they are the byte's ByteStep. -/
theorem updbFeedsOneByte : Obligations.UpdbFeedsOneByte := by
  intro s b hidle
  obtain ⟨hb, -⟩ := busy_eq_false.mp hidle
  refine ⟨decode_updbWord b, _, exec_idle (.updb b) hidle, rfl, rfl, fun hhost => ⟨fun j hj => ?_, ?_⟩⟩
  · obtain ⟨v, hrun, hnext⟩ := shift_next_within_bitcnt (s := feedByte s b) (.inl hhost) hj
    exact ⟨v, hrun, busy_of_engineNext hnext, hnext⟩
  · exact runFor_feedByte (.inl hhost) hb b

/-! ### The run after UPD (R91, R92, R98, R111) -/

theorem step_of_idle_no_host {s : State} (hhost : s.host = []) (hidle : busy s = false) : step s = .next s := by
  simp [step, advance, nextAgent, contended, hostEnabled, hhost, engineEnabled_idle hidle, hidle]

/-- An idle block with no HOST step to come rests (R154, R162). -/
theorem runFor_of_idle_no_host {s : State} (hhost : s.host = []) (hidle : busy s = false) (k : Nat) :
    runFor k s = .next s := by
  induction k with
  | zero => rfl
  | succ k ih => rw [runFor_succ_of_step (step_of_idle_no_host hhost hidle), ih]

/-- A run passes through the state at its step number j. -/
theorem runFor_add_eq_next {s t : State} {j k : Nat} :
    runFor (j + k) s = .next t ↔ ∃ v, runFor j s = .next v ∧ runFor k v = .next t := by
  constructor
  · intro h
    induction j generalizing s with
    | zero => exact ⟨s, rfl, by rwa [Nat.zero_add] at h⟩
    | succ j ih =>
      rw [Nat.add_right_comm] at h
      obtain ⟨m, hm, h⟩ := runFor_succ_eq_next.mp h
      obtain ⟨v, hv, h⟩ := ih h
      exact ⟨v, (runFor_succ_of_step hm j).trans hv, h⟩
  · rintro ⟨v, hv, h⟩
    rw [runFor_add hv, h]

/-- With no HOST step to come, a block that is busy has been busy since the start of the run. -/
theorem busy_throughout_runFor {s t : State} {j k : Nat} (hhost : s.host = []) (hrun : runFor k s = .next t)
    (hbusy : busy t = true) (hj : j ≤ k) : ∃ v, runFor j s = .next v ∧ busy v = true := by
  obtain ⟨i, rfl⟩ := Nat.exists_eq_add_of_le hj
  obtain ⟨v, hv, hrest⟩ := runFor_add_eq_next.mp hrun
  refine ⟨v, hv, Bool.eq_true_of_not_eq_false fun hidle => ?_⟩
  have hhost' : v.host = [] := List.suffix_nil.mp (hhost ▸ host_suffix_of_runFor hv)
  rw [runFor_of_idle_no_host hhost' hidle] at hrest
  cases hrest
  exact Bool.false_ne_true (hidle.symm.trans hbusy)

/-- Over a valid buffer a started sequencer feeds all its bytes, nine steps each, and then completes (R98). -/
theorem runFor_buffer {s : State} (hheld : HostHeld s) (hb : s.bitcnt = 0) (hq : s.seq = .buf) (hw : s.wrap = false)
    (hvalid : validBuffer s s.ptr s.rem.toNat) :
    runFor (9 * s.rem.toNat) s = .next (afterBytes s s.rem.toNat) ∧
      runFor (9 * s.rem.toNat + 1) s = .next (complete (afterBytes s s.rem.toNat)) := by
  have hrun := runFor_bytes hheld hb hw hvalid fun i hi => .inl ⟨hq, hi⟩
  have hrem : (afterBytes s s.rem.toNat).rem = 0#32 := by simp [afterBytes_rem_of_buffer hq]
  have hend : engineNext (afterBytes s s.rem.toNat) = some .endBuf := engineNext_eq_endBuf.mpr ⟨rfl, hq, hrem⟩
  exact ⟨hrun, (runFor_add hrun 1).trans (runFor_succ_of_step (step_of_held (s := afterBytes s s.rem.toNat) hheld hend) 0)⟩

/-- What UPD over n bytes from p leaves of a block it found idle (R111). -/
def afterUpd (s : State) (p n : Word) : State :=
  { s with
    acc := update (memBytes s p n.toNat) s.acc
    ptr := addrAt p n.toNat
    rem := 0#32
    finq := false
    wrap := false
    fetches := (addrsFrom p n.toNat).reverse ++ s.fetches }

theorem complete_afterBytes_upd {s : State} (hidle : busy s = false) (p n : Word) :
    complete (afterBytes (instrEffect (.upd p n) s) n.toNat) = afterUpd s p n := by
  obtain ⟨hb, hq⟩ := busy_eq_false.mp hidle
  have hrem : n - BitVec.ofNat 32 n.toNat = 0#32 := by simp
  simp only [complete, afterBytes, instrEffect, setRem, startSequencer, afterUpd, hrem, hb, hq]
  rfl

theorem runFor_upd {s : State} {p n : Word} (hheld : HostHeld s) (hidle : busy s = false)
    (hvalid : validBuffer s p n.toNat) :
    runFor (9 * n.toNat + 1) (instrEffect (.upd p n) s) = .next (afterUpd s p n) := by
  obtain ⟨hb, -⟩ := busy_eq_false.mp hidle
  obtain ⟨-, hrun⟩ := runFor_buffer (s := instrEffect (.upd p n) s) hheld hb rfl rfl hvalid
  exact hrun.trans (congrArg _ (complete_afterBytes_upd hidle p n))

/-- Settles O16: after its bytes the sequencer is still busy, with the completion alone to come. -/
theorem updComputesUpdate : Obligations.UpdComputesUpdate := by
  intro s p n hidle hhost hvalid
  obtain ⟨hb, -⟩ := busy_eq_false.mp hidle
  obtain ⟨hrun, -⟩ := runFor_buffer (s := instrEffect (.upd p n) s) (.inl hhost) hb rfl rfl hvalid
  exact ⟨_, exec_idle (.upd p n) hidle, rfl,
    fun j hj => busy_throughout_runFor hhost hrun (busy_of_seq_ne nofun) hj, runFor_upd (.inl hhost) hidle hvalid⟩

/-! ### A chain (R112) -/

/-- On an idle block a command issued by the HOST is accepted at the next step, and has its effect (R61). -/
theorem step_of_issue {s : State} {i : Instr} {hs : List HostStep} (hc : isCommand i = true) (hhost : s.host = issue i :: hs)
    (hidle : busy s = false) : step s = .next (instrEffect i { s with host := hs }) := by
  have hu : busy { s with host := hs } = false := hidle
  obtain ⟨c, henc⟩ : ∃ c, encode i = .command c := by
    cases i with
    | nop | init | load | updb | upd | fin | bufcrc | strcrc => exact ⟨_, rfl⟩
    | rdStatus | rdAcc | rdResult | rdRsv3 => simp [isCommand] at hc
  rw [step_of_command_idle (hhost.trans (by rw [issue, henc])) hidle, runRequest, ← henc, decodeEncodeRoundTrip i]
  exact exec_idle i hu

/-- In k steps from s an idle block has fed the bytes `bs` and is idle again in t, with the HOST's steps `hs` still to take;
BM, its readable addresses and ILLEGAL are as before. -/
structure Feeds (k : Nat) (bs : List Byte) (hs : List HostStep) (s t : State) : Prop where
  run : runFor k s = .next t
  idle : busy t = false
  host : t.host = hs
  acc : t.acc = update bs s.acc
  mem : t.mem = s.mem
  readable : t.readable = s.readable
  illegal : t.illegal = s.illegal

theorem Feeds.refl {s : State} (hidle : busy s = false) : Feeds 0 [] s.host s s :=
  ⟨rfl, hidle, rfl, rfl, rfl, rfl, rfl⟩

theorem Feeds.trans {j k : Nat} {bs cs : List Byte} {gs hs : List HostStep} {s t u : State} (h : Feeds j bs gs s t)
    (h' : Feeds k cs hs t u) : Feeds (j + k) (bs ++ cs) hs s u where
  run := runFor_add_eq_next.mpr ⟨t, h.run, h'.run⟩
  idle := h'.idle
  host := h'.host
  acc := by rw [h'.acc, h.acc, update_append]
  mem := h'.mem.trans h.mem
  readable := h'.readable.trans h.readable
  illegal := h'.illegal.trans h.illegal

/-- A transaction is a request on the command port (R60). -/
theorem isTransaction_iff {x : HostStep} : isTransaction x = true ↔ ∃ c, x = .request (.command c) := by
  cases x with
  | request r => cases r <;> simp [isTransaction]
  | wait | write | reset => simp [isTransaction]

/-- Transactions in front of what holds the HOST hold it too. -/
theorem hostHeld_append {s : State} {gs hs : List HostStep} (hgs : ∀ x ∈ gs, isTransaction x = true)
    (hheld : HostHeld { s with host := hs }) : HostHeld { s with host := gs ++ hs } := by
  cases gs with
  | nil => exact hheld
  | cons x gs =>
    obtain ⟨c, rfl⟩ := isTransaction_iff.mp (hgs x List.mem_cons_self)
    exact .inr ⟨c, gs ++ hs, rfl⟩

theorem isTransaction_of_mem_steps {c : Chunk} {x : HostStep} (hx : x ∈ c.steps) : isTransaction x = true := by
  cases c with
  | streamed bs =>
    obtain ⟨b, -, rfl⟩ := List.mem_map.mp hx
    rfl
  | buffer p n =>
    obtain rfl := List.mem_singleton.mp hx
    rfl

theorem feeds_updb {s : State} {b : Byte} {hs : List HostStep} (hhost : s.host = issue (.updb b) :: hs)
    (hidle : busy s = false) (hheld : HostHeld { s with host := hs }) : ∃ t, Feeds 9 [b] hs s t := by
  obtain ⟨hb, -⟩ := busy_eq_false.mp hidle
  have hrun := runFor_feedByte hheld hb b
  exact ⟨_, (runFor_succ_of_step (step_of_issue rfl hhost hidle) 8).trans hrun, hidle, rfl, rfl, rfl, rfl, rfl⟩

theorem feeds_upd {s : State} {p n : Word} {hs : List HostStep} (hhost : s.host = issue (.upd p n) :: hs)
    (hidle : busy s = false) (hvalid : validBuffer s p n.toNat) (hheld : HostHeld { s with host := hs }) :
    ∃ t, Feeds (9 * n.toNat + 2) (memBytes s p n.toNat) hs s t := by
  have hrun := runFor_upd hheld hidle hvalid
  exact ⟨_, (runFor_succ_of_step (step_of_issue rfl hhost hidle) _).trans hrun, hidle, rfl, rfl, rfl, rfl, rfl⟩

theorem feeds_streamed {s : State} {bs : List Byte} {hs : List HostStep} (hhost : s.host = (Chunk.streamed bs).steps ++ hs)
    (hidle : busy s = false) (hheld : HostHeld { s with host := hs }) : ∃ t, Feeds (9 * bs.length) bs hs s t := by
  induction bs generalizing s with
  | nil =>
    obtain rfl : s.host = hs := hhost
    exact ⟨s, .refl hidle⟩
  | cons b bs ih =>
    obtain ⟨m, hm⟩ := feeds_updb hhost hidle
      (hostHeld_append (gs := (Chunk.streamed bs).steps) (fun _ => isTransaction_of_mem_steps) hheld)
    obtain ⟨t, ht⟩ := ih hm.host hm.idle hheld
    rw [List.length_cons, Nat.mul_succ, Nat.add_comm]
    exact ⟨t, hm.trans ht⟩

theorem feeds_chunk {s : State} {c : Chunk} {hs : List HostStep} (hhost : s.host = c.steps ++ hs)
    (hidle : busy s = false) (hvalid : c.valid s) (hheld : HostHeld { s with host := hs }) :
    ∃ t, Feeds c.cost (c.bytes s) hs s t := by
  cases c with
  | streamed bs => exact feeds_streamed hhost hidle hheld
  | buffer p n => exact feeds_upd hhost hidle hvalid hheld

/-- The bytes a chunk stands for are those of BM. -/
theorem Chunk.bytes_congr {s t : State} (hmem : t.mem = s.mem) (c : Chunk) : c.bytes t = c.bytes s := by
  have hread : readMem t = readMem s := funext fun a => by rw [readMem, readMem, hmem]
  cases c with
  | streamed bs => rfl
  | buffer p n => rw [Chunk.bytes, Chunk.bytes, memBytes, memBytes, hread]

theorem chainBytes_congr {s t : State} (hmem : t.mem = s.mem) (chunks : List Chunk) :
    chainBytes t chunks = chainBytes s chunks := by
  rw [chainBytes, chainBytes, funext (Chunk.bytes_congr hmem)]

theorem Chunk.valid_congr {s t : State} (hreadable : t.readable = s.readable) {c : Chunk} (h : c.valid s) : c.valid t := by
  have hread : memReadable t = memReadable s := funext fun a => by rw [memReadable, memReadable, hreadable]
  cases c with
  | streamed bs => trivial
  | buffer p n =>
    rw [Chunk.valid, validBuffer, hread]
    exact h

/-- The chunks of a chain, whatever their form, feed their bytes one chunk after another. -/
theorem feeds_chunks {s : State} {chunks : List Chunk} {hs : List HostStep} (hhost : s.host = chunks.flatMap Chunk.steps ++ hs)
    (hidle : busy s = false) (hvalid : ∀ c ∈ chunks, c.valid s) (hheld : HostHeld { s with host := hs }) :
    ∃ t, Feeds (chunks.map Chunk.cost).sum (chainBytes s chunks) hs s t := by
  induction chunks generalizing s with
  | nil =>
    obtain rfl : s.host = hs := hhost
    exact ⟨s, .refl hidle⟩
  | cons c cs ih =>
    obtain ⟨hc, hcs⟩ := List.forall_mem_cons.mp hvalid
    have hrest : ∀ x ∈ cs.flatMap Chunk.steps, isTransaction x = true := fun x hx => by
      obtain ⟨d, -, hx⟩ := List.mem_flatMap.mp hx
      exact isTransaction_of_mem_steps hx
    rw [List.flatMap_cons, List.append_assoc] at hhost
    obtain ⟨m, hm⟩ := feeds_chunk hhost hidle hc (hostHeld_append hrest hheld)
    obtain ⟨t, ht⟩ := ih hm.host hm.idle (fun d hd => Chunk.valid_congr hm.readable (hcs d hd)) hheld
    rw [chainBytes_congr hm.mem] at ht
    exact ⟨t, hm.trans ht⟩

/-- A chain with further HOST steps `rest` behind it, run up to those. -/
theorem runFor_chain {s : State} {chunks : List Chunk} (hidle : busy s = false) (hvalid : ∀ c ∈ chunks, c.valid s)
    (rest : List HostStep) :
    ∃ t, runFor (chainCost chunks) { s with host := chainProgram chunks ++ rest } = .next t ∧ t.host = rest ∧
      busy t = false ∧ t.mem = s.mem ∧
      finalState t = (update (chainBytes s chunks) Config.initial, finalize (update (chainBytes s chunks) Config.initial),
        s.illegal) := by
  have hinit := step_of_issue (s := { s with host := chainProgram chunks ++ rest }) (i := .init) rfl rfl hidle
  obtain ⟨t, ht⟩ := feeds_chunks
    (s := setAcc { s with host := chunks.flatMap Chunk.steps ++ [issue .fin] ++ rest } Config.initial)
    (List.append_assoc _ _ _) hidle hvalid (.inr ⟨_, rest, rfl⟩)
  have hacc : t.acc = update (chainBytes s chunks) Config.initial :=
    ht.acc.trans (congrArg (update · Config.initial) (chainBytes_congr rfl chunks))
  have hfin := step_of_issue rfl ht.host ht.idle
  refine ⟨_, (runFor_succ_of_step hinit _).trans (runFor_add_eq_next.mpr ⟨t, ht.run, runFor_succ_of_step hfin 0⟩), rfl,
    ht.idle, ht.mem, ?_⟩
  simp [finalState, instrEffect, hacc, ht.illegal]

/-- A run that comes to the polling loop on an idle block, with no other HOST step to come, ends with the loop's first read
(R171). -/
theorem endsWith_of_wait {s t : State} {k : Nat} (hrun : runFor k s = .next t) (hhost : t.host = [.wait])
    (hidle : busy t = false) : endsWith s (finalState t) := by
  have hen : hostEnabled t = true := by simp [hostEnabled, hhost]
  have hagent : nextAgent t = some .host := by simp [nextAgent, contended, hen, engineEnabled_idle hidle]
  obtain ⟨hwait, -⟩ := waitEndsWhenIdle
  obtain ⟨u, hstep, -, hblock, -, -, -, hend⟩ := hwait t [] hhost hagent
  obtain ⟨hacc, hresult, hillegal, -⟩ := hblock
  refine ⟨k + 1, u, (runFor_add hrun 1).trans (runFor_succ_of_step hstep 0), ?_, ?_⟩
  · rw [runEnded_add hrun, hend, hidle, lastIssued, hhost]
    simp [isTransaction]
  · rw [finalState, finalState, hacc, hresult, hillegal]

/-- Settles O47: a chain's run, whether a polling loop follows it or not, comes to one final state, given by the chain's bytes. -/
theorem chainDependsOnBytesOnly : Obligations.ChainDependsOnBytesOnly := by
  intro s chunks hidle hvalid
  obtain ⟨t, hrun, hhost, hrest, hmem, hfinal⟩ := runFor_chain hidle hvalid []
  obtain ⟨u, hrun', hhost', hrest', -, hfinal'⟩ := runFor_chain hidle hvalid [.wait]
  have hend := endsWith_of_wait hrun' hhost' hrest'
  rw [List.append_nil] at hrun
  rw [hfinal', ← hfinal] at hend
  obtain ⟨hacc, hresult, hillegal⟩ : t.acc = _ ∧ t.result = _ ∧ t.illegal = _ := by simpa [finalState] using hfinal
  exact ⟨t, hrun, by simp [atRest, hhost, hrest], hresult, hacc, hmem, hillegal, hend⟩

end Sys2Proof.Machine

/-! PROOF. The finalize command FIN (43_finalize.md R120). -/

namespace Sys2Proof.Machine

/-- Settles O28: the command is a write of RESULT, or finds the block busy. -/
theorem frameFin : Obligations.FrameFin := by
  intro s t h
  obtain rfl | rfl := exec_command_cases rfl h
  · simp [sameMemory, sameSurroundings]
  · simp [instrEffect, sameMemory, sameSurroundings, readMem]

/-- On an idle block FIN is a write of RESULT, with ACC's finalization in whatever form it is known. -/
theorem exec_fin_idle {s : State} {v : Word} (hidle : busy s = false) (hv : finalize s.acc = v) :
    exec .fin s = .next { s with result := v } := by
  rw [exec_idle .fin hidle, ← hv]
  rfl

/-- FIN leaves ACC, so a second one writes the same value. -/
theorem finalizeResult_idem (s : State) : finalizeResult (finalizeResult s) = finalizeResult s := rfl

/-- A state that FIN answers from an idle one is idle, and a second FIN leaves it. -/
theorem exec_fin_twice {s t : State} (hidle : busy s = false) (h : exec .fin s = .next t) :
    exec .fin t = .next t ∧ busy t = false := by
  obtain rfl : finalizeResult s = t := by simpa [exec_idle .fin hidle, instrEffect] using h
  have hidle' : busy (finalizeResult s) = false := hidle
  exact ⟨(exec_idle .fin hidle').trans (congrArg _ (finalizeResult_idem s)), hidle'⟩

/-- Settles O18: FIN writes the complement of ACC, which undoes a complement and is 0 at the seed, and leaves ACC for a second FIN. -/
theorem finWritesResult : Obligations.FinWritesResult := by
  intro s hidle
  have hseed (hacc : s.acc = 0xFFFFFFFF#32) : finalize s.acc = 0x00000000#32 := by rw [hacc]; decide
  exact ⟨exec_fin_idle hidle (finalize_eq_xor s.acc), fun _ => exec_fin_twice hidle,
    fun v => exec_fin_idle (s := { s with acc := ~~~v }) hidle BitVec.not_not,
    fun hacc => exec_fin_idle hidle (hseed hacc), fun _ _ => decode_of_onRow (.fin rfl)⟩

end Sys2Proof.Machine

/-! PROOF. The one-shot checksum commands BUFCRC and STRCRC (44_checksum.md R125 to R129): their accept steps, the runs that
follow, and the same runs beside a HOST that polls STATUS. -/

namespace Sys2Proof.Machine

/-! ### The accept steps (R125, R126) -/

/-- Settles O19: the accept step of BUFCRC is its effect, which leaves SEQ = BUF. -/
theorem bufcrcStartsSequencer : Obligations.BufcrcStartsSequencer := by
  intro s p n hidle
  exact ⟨_, exec_idle (.bufcrc p n) hidle, rfl, busy_of_seq_ne nofun⟩

/-- Settles O21: the accept step of STRCRC is its effect, which leaves SEQ = STR. -/
theorem strcrcStartsSequencer : Obligations.StrcrcStartsSequencer := by
  intro s p hidle
  exact ⟨_, exec_idle (.strcrc p) hidle, rfl, busy_of_seq_ne nofun⟩

/-! ### RESULT until the completion (R24, R95) -/

theorem busy_complete {s : State} (hb : s.bitcnt = 0) : busy (complete s) = false :=
  busy_eq_false.mpr ⟨hb, rfl⟩

/-- The micro-steps that write RESULT are the two completions, and those leave the block idle. -/
theorem engineEffect_result_of_busy {s : State} {e : EngineStep} (hnext : engineNext s = some e)
    (hbusy : busy (engineEffect s e) = true) : (engineEffect s e).result = s.result := by
  obtain ⟨rfl, -⟩ | ⟨rfl, hb, -⟩ | ⟨rfl, -⟩ | ⟨rfl, hb, -⟩ | ⟨rfl, -⟩ := engineNext_cases hnext
  · rfl
  · cases (busy_complete hb).symm.trans hbusy
  · rfl
  · cases (busy_complete (s := recordFetch s) hb).symm.trans hbusy
  · rfl

/-- With no HOST step to come none comes later, and a step is a micro-step of the ENGINE, or the rest of an idle block. -/
theorem step_no_host {s t : State} (hhost : s.host = []) (hstep : step s = .next t) :
    t.host = [] ∧ ((∃ e ts, engineNext s = some e ∧ t = engineEffect { s with turns := ts } e) ∨ t = s) := by
  refine ⟨List.suffix_nil.mp (hhost ▸ host_suffix_of_step hstep), ?_⟩
  cases stepEffect_of_step hstep with
  | @engine e ts _ hnext => exact .inl ⟨e, ts, hnext, rfl⟩
  | rest => exact .inr rfl
  | command _ h | illegal _ h | read h | wait h | write h | reset h => simp [hhost] at h

/-- With no HOST step to come, a run to a busy state leaves RESULT. -/
theorem runFor_result_of_busy {s t : State} {k : Nat} (hhost : s.host = []) (hrun : runFor k s = .next t)
    (hbusy : busy t = true) : t.result = s.result := by
  induction k generalizing s with
  | zero => cases hrun; rfl
  | succ k ih =>
    obtain ⟨m, hstep, hrest⟩ := runFor_succ_eq_next.mp hrun
    obtain ⟨hhost', hmicro⟩ := step_no_host hhost hstep
    obtain ⟨v, hv, hbusy'⟩ := busy_throughout_runFor hhost' hrest hbusy (Nat.zero_le k)
    cases hv
    rw [ih hhost' hrest]
    obtain ⟨e, ts, hnext, rfl⟩ | rfl := hmicro
    · exact engineEffect_result_of_busy (s := { s with turns := ts }) hnext hbusy'
    · rfl

/-- With no HOST step to come, a run to a busy state is busy throughout, with the RESULT it began with. -/
theorem busy_and_result_throughout_runFor {s t : State} {j k : Nat} (hhost : s.host = []) (hrun : runFor k s = .next t)
    (hbusy : busy t = true) (hj : j ≤ k) : ∃ v, runFor j s = .next v ∧ busy v = true ∧ v.result = s.result := by
  obtain ⟨v, hv, hbusy'⟩ := busy_throughout_runFor hhost hrun hbusy hj
  exact ⟨v, hv, hbusy', runFor_result_of_busy hhost hv hbusy'⟩

/-! ### The runs after BUFCRC and STRCRC (R91 to R95, R98) -/

/-- What a one-shot command over k bytes from p leaves of a block it found idle, where it has read m addresses and left r in REM
(R125, R126). -/
def afterChecksum (s : State) (p : Word) (k m : Nat) (r : Word) : State :=
  { s with
    acc := update (memBytes s p k) Config.initial
    result := finalize (update (memBytes s p k) Config.initial)
    ptr := addrAt p k
    rem := r
    finq := false
    wrap := false
    fetches := (addrsFrom p m).reverse ++ s.fetches }

theorem complete_afterBytes_bufcrc {s : State} (hidle : busy s = false) (p n : Word) :
    complete (afterBytes (instrEffect (.bufcrc p n) s) n.toNat) = afterChecksum s p n.toNat n.toNat 0#32 := by
  obtain ⟨hb, hq⟩ := busy_eq_false.mp hidle
  have hrem : n - BitVec.ofNat 32 n.toNat = 0#32 := by simp
  simp only [complete, afterBytes, instrEffect, setRem, startSequencer, setAcc, afterChecksum, hrem, hb, hq]
  rfl

/-- The terminator is the last address read, and no byte of the checksum (R94). -/
theorem complete_afterBytes_strcrc {s : State} (hidle : busy s = false) (p : Word) (k : Nat) :
    complete (recordFetch (afterBytes (instrEffect (.strcrc p) s) k)) = afterChecksum s p k (k + 1) s.rem := by
  obtain ⟨hb, hq⟩ := busy_eq_false.mp hidle
  have haddrs : (addrsFrom p (k + 1)).reverse = addrAt p k :: (addrsFrom p k).reverse := by
    rw [addrsFrom_add, addrsFrom_one, List.reverse_append]
    rfl
  simp only [complete, recordFetch, afterBytes, instrEffect, startSequencer, setAcc, afterChecksum, haddrs, hb, hq]
  rfl

/-- Over a valid string a started sequencer feeds the bytes before the terminator, nine steps each, and then reads the terminator
and completes (R98). -/
theorem runFor_string {s : State} {k : Nat} (hheld : HostHeld s) (hb : s.bitcnt = 0) (hq : s.seq = .str)
    (hw : s.wrap = false) (hstring : validString s s.ptr k) :
    runFor (9 * k) s = .next (afterBytes s k) ∧
      runFor (9 * k + 1) s = .next (complete (recordFetch (afterBytes s k))) := by
  obtain ⟨hne, hzero, hvalid⟩ := hstring
  obtain ⟨hread, hlt⟩ := hvalid k (Nat.lt_succ_self k)
  have hrun := runFor_bytes hheld hb hw (fun i hi => hvalid i (Nat.lt_succ_of_lt hi)) fun i hi => .inr ⟨hq, hne i hi⟩
  have hadm : fetchAdmitted (afterBytes s k) = true := by
    rw [fetchAdmitted_afterBytes, hread, decide_eq_false hlt.ne]
    rfl
  have hend : engineNext (afterBytes s k) = some .endStr := engineNext_eq_endStr.mpr ⟨rfl, hq, hadm, hzero⟩
  exact ⟨hrun, (runFor_add hrun 1).trans (runFor_succ_of_step (step_of_held (s := afterBytes s k) hheld hend) 0)⟩

/-- BUFCRC over a valid buffer: busy up to its last byte, and then the checksum (R125). -/
theorem runFor_bufcrc {s : State} {p n : Word} (hheld : HostHeld s) (hidle : busy s = false)
    (hvalid : validBuffer s p n.toNat) :
    (∃ v, runFor (9 * n.toNat) (instrEffect (.bufcrc p n) s) = .next v ∧ busy v = true) ∧
      runFor (9 * n.toNat + 1) (instrEffect (.bufcrc p n) s) = .next (afterChecksum s p n.toNat n.toNat 0#32) := by
  obtain ⟨hb, -⟩ := busy_eq_false.mp hidle
  obtain ⟨hrun, hdone⟩ := runFor_buffer (s := instrEffect (.bufcrc p n) s) hheld hb rfl rfl hvalid
  exact ⟨⟨_, hrun, busy_of_seq_ne nofun⟩, hdone.trans (congrArg _ (complete_afterBytes_bufcrc hidle p n))⟩

/-- STRCRC over a valid string: busy up to its last byte, and then the checksum (R126). -/
theorem runFor_strcrc {s : State} {p : Word} {k : Nat} (hheld : HostHeld s) (hidle : busy s = false)
    (hstring : validString s p k) :
    (∃ v, runFor (9 * k) (instrEffect (.strcrc p) s) = .next v ∧ busy v = true) ∧
      runFor (9 * k + 1) (instrEffect (.strcrc p) s) = .next (afterChecksum s p k (k + 1) s.rem) := by
  obtain ⟨hb, -⟩ := busy_eq_false.mp hidle
  obtain ⟨hrun, hdone⟩ := runFor_string (s := instrEffect (.strcrc p) s) hheld hb rfl rfl hstring
  exact ⟨⟨_, hrun, busy_of_seq_ne nofun⟩, hdone.trans (congrArg _ (complete_afterBytes_strcrc hidle p k))⟩

/-- Settles O20: after its bytes the sequencer is still busy, with the completion alone to come. -/
theorem bufcrcComputesChecksum : Obligations.BufcrcComputesChecksum := by
  intro s p n hidle hhost hvalid
  obtain ⟨⟨v, hrun, hbusy⟩, hdone⟩ := runFor_bufcrc (.inl hhost) hidle hvalid
  exact ⟨_, exec_idle (.bufcrc p n) hidle, fun _ => busy_and_result_throughout_runFor hhost hrun hbusy, hdone⟩

/-- Settles O22: after its bytes the sequencer is still busy, with the terminator's read and the completion alone to come. -/
theorem strcrcComputesChecksum : Obligations.StrcrcComputesChecksum := by
  intro s p k hidle hhost hstring
  obtain ⟨⟨v, hrun, hbusy⟩, hdone⟩ := runFor_strcrc (.inl hhost) hidle hstring
  exact ⟨_, exec_idle (.strcrc p) hidle, fun _ => busy_and_result_throughout_runFor hhost hrun hbusy, hdone⟩

/-! ### A HOST that polls STATUS beside the ENGINE (R14, R73, R99) -/

/-- The state s beside a HOST in its polling loop, with choices of turn and a record of reads of its own. -/
def polling (s : State) (ts : List Agent) (rs : List ReadEvent) : State :=
  { s with host := [.wait], turns := ts, reads := rs }

theorem polling_engineEffect (s : State) (e : EngineStep) (ts ts' : List Agent) (rs : List ReadEvent) :
    engineEffect (polling s ts rs) e = polling (engineEffect { s with turns := ts' } e) ts rs := by
  cases e <;> rfl

theorem polling_instrEffect (i : Instr) (s : State) :
    instrEffect i { s with host := [.wait] } =
      polling (instrEffect i { s with host := [] }) s.turns (instrEffect i { s with host := [] }).reads := by
  cases i <;> rfl

/-- A turn of the loop beside a busy block is a read of STATUS and nothing else (R73). -/
theorem hostTurn_polling {s : State} (hbusy : busy s = true) (ts : List Agent) (rs : List ReadEvent) :
    hostTurn (polling s ts rs) = .next (polling s ts (⟨0#2, statusWord s⟩ :: rs)) := by
  have hbusy' : busy (polling s ts rs) = true := hbusy
  rw [hostTurn_wait_next rfl, if_pos hbusy']
  rfl

/-- The HOST's turns at the polling loop do nothing to a busy block, and are used up before the ENGINE's next micro-step. -/
theorem runFor_polling_engine {s : State} {e : EngineStep} (hnext : engineNext s = some e) (ts : List Agent)
    (rs : List ReadEvent) : ∃ j ts' rs', runFor j (polling s ts rs) = .next (engineEffect (polling s ts' rs') e) := by
  have hbusy : busy s = true := busy_of_engineNext hnext
  have he (ts rs) : engineEnabled (polling s ts rs) = true := engineEnabled_of_engineNext (s := polling s ts rs) hnext
  induction ts generalizing rs with
  | nil => exact ⟨1, [], rs, runFor_succ_of_step (step_of_engine (nextAgent_engine_of_no_turns (he [] rs) rfl) hnext) 0⟩
  | cons a ts ih =>
    cases a with
    | engine =>
      exact ⟨1, ts, rs, runFor_succ_of_step (step_of_engine (nextAgent_engine_of_turns (he (.engine :: ts) rs) rfl) hnext) 0⟩
    | host =>
      have hstep := (step_of_hostTurn_cons rfl (he (.host :: ts) rs) rfl).trans (hostTurn_polling hbusy ts rs)
      obtain ⟨j, ts', rs', hrun⟩ := ih (⟨0#2, statusWord s⟩ :: rs)
      exact ⟨j + 1, ts', rs', (runFor_succ_of_step hstep j).trans hrun⟩

/-- A run with no HOST step to come has its like beside a HOST that polls STATUS, whatever the choices of turn. -/
theorem runFor_polling {s t : State} {k : Nat} (hhost : s.host = []) (hrun : runFor k s = .next t) (ts : List Agent)
    (rs : List ReadEvent) : ∃ j ts' rs', runFor j (polling s ts rs) = .next (polling t ts' rs') := by
  induction k generalizing s ts rs with
  | zero => cases hrun; exact ⟨0, ts, rs, rfl⟩
  | succ k ih =>
    obtain ⟨m, hstep, hrest⟩ := runFor_succ_eq_next.mp hrun
    obtain ⟨hhost', ⟨e, us, hnext, rfl⟩ | rfl⟩ := step_no_host hhost hstep
    · obtain ⟨i, ts₁, rs₁, hmicro⟩ := runFor_polling_engine hnext ts rs
      obtain ⟨j, ts₂, rs₂, hlater⟩ := ih hhost' hrest ts₁ rs₁
      rw [polling_engineEffect s e ts₁ us] at hmicro
      exact ⟨i + j, ts₂, rs₂, (runFor_add hmicro j).trans hlater⟩
    · exact ih hhost' hrest ts rs

/-! ### A command as a whole program (R127, R129, R171) -/

/-- A command that brings an idle block to rest: its program's run is one step longer, and the run of the program that then polls
STATUS ends in the same final state. -/
theorem program_of_command {s t : State} {i : Instr} {k : Nat} (hc : isCommand i = true) (hidle : busy s = false)
    (hrun : runFor k (instrEffect i { s with host := [] }) = .next t) (hrest : busy t = false) :
    runFor (k + 1) { s with host := [issue i] } = .next t ∧ atRest t = true ∧
      endsWith { s with host := [issue i, .wait] } (finalState t) := by
  have hnone : (instrEffect i { s with host := [] }).host = [] := instrEffect_host i _
  have hhost : t.host = [] := List.suffix_nil.mp (hnone ▸ host_suffix_of_runFor hrun)
  have hstep := step_of_issue (s := { s with host := [issue i] }) hc rfl hidle
  have hstep' := step_of_issue (s := { s with host := [issue i, .wait] }) hc rfl hidle
  obtain ⟨j, ts, rs, hpoll⟩ := runFor_polling hnone hrun s.turns (instrEffect i { s with host := [] }).reads
  rw [← polling_instrEffect] at hpoll
  exact ⟨(runFor_succ_of_step hstep k).trans hrun, by simp [atRest, hhost, hrest],
    endsWith_of_wait (t := polling t ts rs) ((runFor_succ_of_step hstep' j).trans hpoll) rfl hrest⟩

/-- Settles O45: `init; upd; fin` is a chain of one buffer, so both programs leave the update of INITIAL and its finalization. -/
theorem bufcrcEqualsInitUpdFin : Obligations.BufcrcEqualsInitUpdFin := by
  intro s p n hidle hvalid
  obtain ⟨-, hdone⟩ := runFor_bufcrc (s := { s with host := [] }) (.inl rfl) hidle hvalid
  obtain ⟨hrun, hrest, hend⟩ := program_of_command rfl hidle hdone hidle
  have hchunks : ∀ c ∈ [Chunk.buffer p n], c.valid s := List.forall_mem_singleton.mpr hvalid
  obtain ⟨u, hrun', hrest', hresult, hacc, -, hillegal, hend'⟩ := chainDependsOnBytesOnly s [.buffer p n] hidle hchunks
  have hbytes : chainBytes s [.buffer p n] = memBytes s p n.toNat := List.append_nil _
  rw [hbytes] at hresult hacc
  have hfinal : finalState u = finalState (afterChecksum { s with host := [] } p n.toNat n.toNat 0#32) := by
    rw [finalState, hacc, hresult, hillegal]
    rfl
  exact ⟨_, u, hrun, hrun', hrest, hrest', hacc.symm, hresult.symm, hend, hfinal ▸ hend'⟩

theorem length_fetches_afterChecksum (s : State) (p : Word) (k m : Nat) (r : Word) :
    (afterChecksum s p k m r).fetches.length = s.fetches.length + m := by
  simp [afterChecksum, addrsFrom, Nat.add_comm]

/-- Settles O46: the two commands leave one state but for REM and the terminator's read. -/
theorem strcrcEqualsBufcrc : Obligations.StrcrcEqualsBufcrc := by
  intro s p k hidle hstring
  have ⟨_, _, hvalid⟩ := hstring
  obtain ⟨-, hlt⟩ := hvalid k (Nat.lt_succ_self k)
  have hk : (BitVec.ofNat 32 k).toNat = k := by
    rw [BitVec.toNat_ofNat, Nat.mod_eq_of_lt (by omega)]
  have hbuffer : validBuffer s p (BitVec.ofNat 32 k).toNat := fun i hi => hvalid i (by omega)
  obtain ⟨-, hstr⟩ := runFor_strcrc (s := { s with host := [] }) (.inl rfl) hidle hstring
  obtain ⟨-, hbuf⟩ := runFor_bufcrc (s := { s with host := [] }) (.inl rfl) hidle hbuffer
  rw [hk] at hbuf
  obtain ⟨hrun, hrest, hend⟩ := program_of_command rfl hidle hstr hidle
  obtain ⟨hrun', hrest', hend'⟩ := program_of_command rfl hidle hbuf hidle
  exact ⟨_, _, hrun, hrun', hrest, hrest', rfl, rfl, length_fetches_afterChecksum .., length_fetches_afterChecksum ..,
    hend, hend'⟩

end Sys2Proof.Machine

/-! PROOF. Where a step stops (60_exceptions.md R140; 40_engine.md R97): every operation answers a next state, and what is left is
the busy block in which neither agent has an enabled step. -/

namespace Sys2Proof.Machine

/-! ### The operations that always answer -/

theorem accept_answers (s : State) (f : State → State) : ∃ t, accept s f = .next t := by
  cases hbusy : busy s with
  | false => exact ⟨_, accept_idle hbusy⟩
  | true => exact ⟨_, accept_busy hbusy⟩

theorem exec_answers (i : Instr) (s : State) : ∃ t, exec i s = .next t := by
  rw [exec_eq]
  split
  · exact accept_answers s _
  · exact ⟨_, rfl⟩

/-- An illegal command word is accepted like any other (R141). -/
theorem runRequest_answers (r : Request) (s : State) : ∃ t, runRequest r s = .next t := by
  unfold runRequest
  split
  · exact exec_answers _ s
  · exact accept_answers s setIllegal

theorem hostTurn_answers (s : State) : ∃ t, hostTurn s = .next t := by
  cases hhost : s.host with
  | nil => exact ⟨s, by simp only [hostTurn, hhost]⟩
  | cons x hs =>
    cases x with
    | request r => exact hostTurn_request hhost ▸ runRequest_answers r (dequeue s)
    | wait => exact ⟨_, hostTurn_wait_next hhost⟩
    | write a b => exact ⟨_, hostTurn_write hhost⟩
    | reset => exact ⟨_, hostTurn_reset hhost⟩

/-! ### The step -/

theorem engineEnabled_of_nextAgent {s : State} (h : nextAgent s = some .engine) : engineEnabled s = true := by
  refine Bool.eq_true_of_not_eq_false fun he => ?_
  cases hh : hostEnabled s <;> simp [nextAgent, contended, hh, he] at h

theorem nextAgent_eq_none {s : State} : nextAgent s = none ↔ hostEnabled s = false ∧ engineEnabled s = false := by
  cases hh : hostEnabled s <;> cases he : engineEnabled s <;> simp [nextAgent, contended, hh, he]

/-- A HOST with no enabled step has none to take, or presents a transaction: every other step is enabled in every state. -/
theorem hostHeld_of_not_hostEnabled {s : State} (h : hostEnabled s = false) : HostHeld s := by
  cases hhost : s.host with
  | nil => exact .inl hhost
  | cons x hs =>
    cases x with
    | request r =>
      cases r with
      | command c => exact .inr ⟨c, hs, hhost⟩
      | read a => simp [hostEnabled, hhost] at h
    | wait | write | reset => simp [hostEnabled, hhost] at h

/-- Settles O53: the HOST's step and the ENGINE's micro-step answer, an idle block that neither moves rests, and a busy one is stuck. -/
theorem onlyStuckStatesStop : Obligations.OnlyStuckStatesStop := by
  have hstop (s : State) (hstuck : stuck s = true) (hh : hostEnabled s = false) : step s = .fault .stuck :=
    step_of_stuck hstuck (hostHeld_of_not_hostEnabled hh)
  refine ⟨fun i s => exec_answers s i, fun s => ?_, hstop⟩
  cases hagent : nextAgent s with
  | some a =>
    cases a with
    | host => exact .inl (step_of_nextAgent_host hagent ▸ hostTurn_answers (takeTurn s))
    | engine =>
      obtain ⟨e, hnext⟩ := Option.isSome_iff_exists.mp (engineEnabled_of_nextAgent hagent)
      exact .inl ⟨_, step_of_engine hagent hnext⟩
  | none =>
    obtain ⟨hh, he⟩ := nextAgent_eq_none.mp hagent
    cases hbusy : busy s with
    | false => exact .inl ⟨s, by simp [step, advance, hagent, hbusy]⟩
    | true =>
      have hstuck : stuck s = true := stuck_of_engineNext_none hbusy (by simpa [engineEnabled] using he)
      exact .inr ⟨hstop s hstuck hh, hstuck, hh⟩

end Sys2Proof.Machine

/-! PROOF. Reset and hazards (70_reset_and_hazards.md R160, R161, R165): the reset step, the stuck states it alone leaves, and a
read that falls between the bit-steps of an UPDB. -/

namespace Sys2Proof.Machine

/-! ### The reset step (R160, R161) -/

/-- A reset is enabled in every state, and at the HOST's turn it is taken. -/
theorem step_of_reset {s : State} {hs : List HostStep} {ts : List Agent} (hhost : s.host = .reset :: hs)
    (hts : s.turns = .host :: ts) :
    step s = .next (resetBlock { s with host := hs, turns := if engineEnabled s then s.turns.tail else s.turns }) := by
  have hh : hostEnabled s = true := by simp [hostEnabled, hhost]
  have hu : ({ s with turns := if engineEnabled s then s.turns.tail else s.turns } : State).host = .reset :: hs := hhost
  rw [step_of_hostTurn (nextAgent_host_of_turns hh hts), hostTurn_reset hu, dequeue_of_host hu]

theorem busy_resetBlock (s : State) : busy (resetBlock s) = false := busy_eq_false.mpr ⟨rfl, rfl⟩

/-- After a reset STATUS has neither flag (R25, R160). -/
theorem statusWord_resetBlock (s : State) : statusWord (resetBlock s) = 0#32 := by
  simp [statusWord, busy_resetBlock]

/-- A reset leaves the block as it is right after reset, whatever it was before (R160). -/
theorem sameBlock_resetBlock (s : State) : sameBlock State.reset (resetBlock s) :=
  ⟨rfl, rfl, rfl, rfl, rfl, rfl, rfl, rfl, rfl⟩

/-- Settles O1: the step is the reset's effect, which writes each register without looking at the state. -/
theorem resetTakenInAnyState : Obligations.ResetTakenInAnyState := by
  intro s hs ts
  exact ⟨_, step_of_reset rfl rfl, rfl, rfl, rfl, rfl, rfl, rfl, rfl, rfl, rfl, statusWord_resetBlock _, busy_resetBlock _,
    rfl, rfl, sameBlock_resetBlock _⟩

/-- Being stuck depends on the block's registers and on the readable addresses alone (R97). -/
theorem stuck_congr {s t : State} (hblock : sameBlock s t) (hreadable : t.readable = s.readable) : stuck t = stuck s := by
  obtain ⟨-, -, -, hb, hq, hp, hr, -, hw⟩ := hblock
  simp only [stuck, fetchDue, memReadable, hb, hq, hp, hr, hw, hreadable]

/-- Settles O2: a reset leaves an idle block, and every other step from a stuck state leaves what makes it stuck. -/
theorem resetAbortsAndAloneFreesStuck : Obligations.ResetAbortsAndAloneFreesStuck := by
  refine ⟨fun s hs ts => ?_, fun s t hstuck hstep => ?_⟩
  · exact ⟨_, step_of_reset rfl rfl, enabled_eq_false_of_engineNext (engineNext_idle (busy_resetBlock _)), rfl, rfl, rfl⟩
  · obtain ⟨hreadable, -⟩ := readsOnlyAdmittedPtr s t hstep
    refine (stuck_step_frame hstuck hstep).imp_right fun ⟨hblock, _⟩ => ?_
    rw [stuck_congr hblock hreadable, hstuck]

/-! ### A read between bit-steps (R165) -/

/-- While BITCNT counts shifts to come, each turn of the ENGINE is a bit-step, though a read is ready to be taken. -/
theorem runFor_shifts_before_read {s : State} {a : BitVec 2} {hs : List HostStep} {j : Nat} {ts : List Agent}
    (hhost : s.host = .request (.read a) :: hs) (hts : s.turns = List.replicate j .engine ++ ts) (hj : j ≤ s.bitcnt.val) :
    ∃ c : Fin 9, c.val + j = s.bitcnt.val ∧
      runFor j s = .next { s with acc := bitSteps j s.acc, bitcnt := c, turns := ts } := by
  induction j generalizing s with
  | zero =>
    obtain rfl : s.turns = ts := hts
    exact ⟨s.bitcnt, rfl, rfl⟩
  | succ j ih =>
    have hne : s.bitcnt ≠ 0 := Fin.pos_iff_ne_zero.mp (Nat.zero_lt_of_lt hj)
    have hleft : (s.bitcnt - 1).val = s.bitcnt.val - 1 := Fin.val_sub_one_of_ne_zero hne
    have hnext := engineNext_eq_shift.mpr hne
    have hh : hostEnabled s = true := by simp [hostEnabled, hhost]
    have hstep := step_of_engine (nextAgent_engine_of_turns (engineEnabled_of_engineNext hnext) hts) hnext
    rw [hh, hts] at hstep
    obtain ⟨c, hc, hrun⟩ := ih (s := engineShift { s with turns := List.replicate j .engine ++ ts }) hhost rfl
      (by rw [engineShift_bitcnt, hleft]; omega)
    rw [engineShift_bitcnt, hleft] at hc
    exact ⟨c, by omega, (runFor_succ_of_step hstep j).trans hrun⟩

/-- After j of the bit-steps that BITCNT counts, the HOST's turn returns the accumulator of that point (R71, R104). -/
theorem read_acc_between_shifts (s : State) {j : Nat} (hj : j < s.bitcnt.val) (hs : List HostStep) (ts : List Agent) :
    ∃ t, runFor (j + 1) { s with host := issue .rdAcc :: hs, turns := List.replicate j .engine ++ .host :: ts } = .next t ∧
      t.reads = ⟨1#2, bitSteps j s.acc⟩ :: s.reads ∧ busy t = true := by
  obtain ⟨c, hc, hrun⟩ := runFor_shifts_before_read
    (s := { s with host := issue .rdAcc :: hs, turns := List.replicate j .engine ++ .host :: ts }) rfl rfl hj.le
  have hleft : c.val ≠ 0 := fun h => by
    rw [h, Nat.zero_add] at hc
    exact hj.ne hc
  obtain ⟨t, hstep, hreads, hblock, -⟩ := readTakenAtAnyStep { s with acc := bitSteps j s.acc, bitcnt := c } 1#2 hs ts
  obtain ⟨-, -, -, hb, -⟩ := hblock
  have hnext : engineNext t = some .shift := engineNext_eq_shift.mpr fun h => hleft (congrArg Fin.val (hb.symm.trans h))
  exact ⟨t, (runFor_add hrun 1).trans (runFor_succ_of_step hstep 0), hreads, busy_of_engineNext hnext⟩

/-- Settles O56: UPDB leaves eight bit-steps to come, and the turns give the ENGINE j of them before the HOST's read. -/
theorem readWhileBusyAdmitsEachPoint : Obligations.ReadWhileBusyAdmitsEachPoint := by
  intro s b j hidle hj
  obtain ⟨t, hrun, hreads, hbusy⟩ := read_acc_between_shifts (feedByte s b) hj [] []
  exact ⟨_, t, exec_idle (.updb b) hidle, hrun, hreads, hbusy⟩

end Sys2Proof.Machine
